-- ==== Sys2Proof/Word.lean ====
section
/-! DEFINITION. Word.lean: the value types of the spec (00_scope.md R8, R11) and the address mask. -/

namespace Sys2Proof

/-- One fetched opcode unit, one program byte, one data location: 8 bits (R8 `OPW`, R61, R62). -/
abbrev Byte := BitVec 8

/-- The accumulator, the B register and their histories: 4 bits (R8 `REGW`, R26, R27). -/
abbrev Nibble := BitVec 4

/-- A carry value: 1 bit (R31). -/
abbrev Bit := BitVec 1

/-- The mask of a `w`-bit address space, `2^w - 1` (R8 `PMASK`, `DMASK`). -/
def mask (w : Nat) : Nat := 2 ^ w - 1

end Sys2Proof
end

