-- ==== Sys2Proof/Config.lean ====
section
/-! DEFINITION. Config.lean: what is fixed when a core is constructed (00_scope.md R8), the language in which a
variant's execute_one is written (44_decode_contract.md R214, R223), and the constants the spec leaves open. -/

namespace Sys2Proof

/-- The cycle cost an `execute_one` call reports: 1 or 2 and nothing else (R213, D20). -/
inductive Cost where
  | one
  | two
  deriving DecidableEq, Repr, Inhabited

/-- Which Decode Contract a core was constructed with (R8, R210). -/
inductive Variant where
  /-- The spec's test variant T0 (R240). -/
  | t0
  /-- The probe contract PRB of 95_test_vectors.md. -/
  | probe
  /-- Any other variant, by number: its contract is `Config.contract n`, which nothing constrains (R2, R97). -/
  | other (n : Nat)
  deriving DecidableEq, Repr

/-- The construction-time configuration, "fixed for the lifetime of a core instance" (R8). -/
structure Config where
  /-- `PW`, program address width in bits (R8, R9). -/
  pw : Nat
  /-- `DW`, data address width in bits (R8, R9). -/
  dw : Nat
  /-- `HAS_SEG`, a Segment Output Port is attached (R8, R230). -/
  hasSeg : Bool
  /-- `SKIP_COST`, cycles charged to one suppressed slot (R8, R119). -/
  skipCost : Nat
  /-- The Decode Contract (R8, R210). -/
  variant : Variant
  deriving DecidableEq, Repr

/-- `PMASK` (R8). -/
def Config.pmask (g : Config) : Nat := mask g.pw

/-- `DMASK` (R8). -/
def Config.dmask (g : Config) : Nat := mask g.dw

/-- The bounds construction requires: `PW >= 1`, `DW >= 1`, `SKIP_COST >= 1` (R8, R296 item 5). -/
def Config.wf (g : Config) : Bool := decide (1 ≤ g.pw) && decide (1 ≤ g.dw) && decide (1 ≤ g.skipCost)

/-- T0's configuration (R240): `PW = 6`, `DW = 4`, no segment port, `SKIP_COST = 1`. -/
def Config.t0 : Config := ⟨6, 4, false, 1, .t0⟩

/-- What one `execute_one` call does, as the list of reads, writes and primitives it makes in order (R232). The
constructors are exactly the accesses R214 and R223 allow, so a variant written in `Action` touches core state in no
other way, returns, raises nothing and costs 1 or 2 (R219 items 1 to 3 and 6). DESIGN CHOICE, log 8: unsafe only if a
variant is to be modelled that breaks R214. -/
inductive Action where
  /-- Return the cost (R213). -/
  | done (cost : Cost)
  /-- The variant defines nothing for the byte in `op` (R98, R265). -/
  | unmapped
  | readOp (k : Byte → Action)
  | readPrevOp (k : Byte → Action)
  | readPrev2Op (k : Byte → Action)
  /-- `pc`, already past the byte in `op` (R215). -/
  | readPc (k : Nat → Action)
  | readPrevPc (k : Nat → Action)
  | readA (k : Nibble → Action)
  | readB (k : Nibble → Action)
  | readPrevA (k : Nibble → Action)
  | readPrev2A (k : Nibble → Action)
  | readPrevB (k : Nibble → Action)
  | readPrev2B (k : Nibble → Action)
  | readPrevC (k : Bit → Action)
  | readSag (k : Bool → Action)
  | writeA (v : Nibble) (k : Action)
  | writeB (v : Nibble) (k : Action)
  | writeSag (v : Bool) (k : Action)
  /-- `PcLoad` (R216). -/
  | pcLoad (target : Nat) (k : Action)
  /-- `Push` (R161). -/
  | push (v : Nat) (k : Action)
  /-- `Pop` (R162). -/
  | pop (k : Nat → Action)
  /-- `SkipRequest` (R141). -/
  | skipRequest (k : Action)
  /-- `CarryRead` (R184). -/
  | carryRead (k : Bit → Action)
  /-- `CarryInRead` (R184). -/
  | carryInRead (k : Bit → Action)
  /-- `CarryWriteDelayed` (R185). -/
  | carryWriteDelayed (v : Nat) (k : Action)
  /-- `CarryWriteImmediate` (R186). -/
  | carryWriteImmediate (v : Nat) (k : Action)
  /-- `RamAddrRead` (R189). -/
  | ramAddrRead (k : Nat → Action)
  /-- `RamAddrWriteDelayed` (R190). -/
  | ramAddrWriteDelayed (v : Nat) (k : Action)
  /-- `RamAddrWriteImmediate` (R191). -/
  | ramAddrWriteImmediate (v : Nat) (k : Action)
  /-- `DataRead` (R228). -/
  | dataRead (k : Byte → Action)
  /-- `DataWrite` (R229). -/
  | dataWrite (v : Byte) (k : Action)
  /-- `ProgRead` (R231). -/
  | progRead (addr : Nat) (k : Byte → Action)
  /-- `ProgWrite` (R231). -/
  | progWrite (addr : Nat) (v : Byte) (k : Action)
  /-- `SegLookup` (R230). -/
  | segLookup (v : Nat) (k : Nat → Action)
  /-- Read the variant's private state (R220). -/
  | readPriv (k : List Nat → Action)
  /-- Write the variant's private state (R220). -/
  | writePriv (v : List Nat) (k : Action)
  deriving Inhabited

/-- One Decode Contract (R210): `execute_one`, `op_is_prefix` (a function of the byte alone, R212), the variant's own
account of its instructions, and the reset of the variant's private state, which the variant does by its own means
(R314). R220 leaves it to the variant how that state ages; here it changes only by `Action.writePriv` and `resetPriv`,
so in no suppressed slot: DESIGN CHOICE, log 17, unsafe. -/
structure Contract where
  executeOne : Action
  /-- What the variant's instructions do with the byte in `op` where it stands as a second byte (`true`) and where it
  stands as the only or first byte of an instruction (`false`). The core calls `executeOne` alone, which must tell the
  two apart by itself (R221); that it does, as `opIsPrefix` says, is the agreement R222 asks, `State.Agrees`. Log 8. -/
  byPosition : Bool → Action
  opIsPrefix : Byte → Bool
  resetPriv : List Nat → List Nat
  deriving Inhabited

/-- The contract of variant number `n`: a parameter the spec leaves open (R8, U6), so a constant without a body; what
is proved of it holds of every contract. DESIGN CHOICE, log 7. -/
opaque Config.contract : Nat → Contract

/-- The segment table `SEG : value -> pattern` (R230): a parameter whose widths and contents the spec leaves open
(N7), so a constant without a body. DESIGN CHOICE, log 13. -/
opaque Config.seg : Nat → Nat

end Sys2Proof
end

