-- ==== Sys2Proof/Machine/Variant.lean ====
section
/-! DEFINITION. Machine/Variant.lean: the prefix class of each variant (44_decode_contract.md R212). -/

namespace Sys2Proof.Machine

/-- T0's `op_is_prefix` (R240): 0x80 and 0x81. -/
def t0IsPrefix (b : Byte) : Bool := b == 0x80#8 || b == 0x81#8

/-- The probe contract's `op_is_prefix` (95_test_vectors.md): the same two bytes. -/
def probeIsPrefix (b : Byte) : Bool := b == 0x80#8 || b == 0x81#8

/-- `op_is_prefix` of a variant, a function of the byte alone (R212). -/
def opIsPrefix (v : Variant) (b : Byte) : Bool :=
  match v with
  | .t0 => t0IsPrefix b
  | .probe => probeIsPrefix b
  | .other n => (Config.contract n).opIsPrefix b

/-- The bytes to which T0 gives no instruction in first-byte position: 0x51..0x7F and 0x82..0xFF (R265). -/
def t0Unmapped (b : Byte) : Bool :=
  (decide (0x51#8 ≤ b) && decide (b ≤ 0x7F#8)) || decide (0x82#8 ≤ b)

end Sys2Proof.Machine
end

