-- ==== Sys2Proof/Syntax.lean ====
section
/-! DEFINITION. Syntax.lean: one constructor per row of spec/opcode_table.json (30_encoding.md R97, R101). -/

namespace Sys2Proof

/-- The instructions: the two generic rows of the core and the 23 rows of the test variant T0. -/
inductive Instr where
  /-- `BYTE`: any byte of class N, format B1 (R91, R97, R117). -/
  | byte (opcode : Byte)
  /-- `PREFIX2`: any byte of class P and the byte after it, format B2 (R92, R97, R143). -/
  | prefix2 (first second : Byte)
  /-- `NOP` (R242). -/
  | nop
  /-- `NOP2` (R243). -/
  | nop2
  /-- `SKIP` (R244). -/
  | skip
  /-- `SKC` (R245). -/
  | skc
  /-- `SC` (R246). -/
  | sc
  /-- `RC` (R247). -/
  | rc
  /-- `SCI` (R248). -/
  | sci
  /-- `RCI` (R249). -/
  | rci
  /-- `RET` (R250). -/
  | ret
  /-- `RETSK` (R251). -/
  | retsk
  /-- `LD` (R252). -/
  | ld
  /-- `ST` (R253). -/
  | st
  /-- `XAB` (R254). -/
  | xab
  /-- `LAPP` (R255). -/
  | lapp
  /-- `SKAZ` (R256). -/
  | skaz
  /-- `ADC` (R257). -/
  | adc
  /-- `LAI n` (R258). -/
  | lai (n : Nibble)
  /-- `LB n` (R259). -/
  | lb (n : Nibble)
  /-- `LBI n` (R260). -/
  | lbi (n : Nibble)
  /-- `ADI n` (R261). -/
  | adi (n : Nibble)
  /-- `LAR` (R264). -/
  | lar
  /-- `JMP aa` (R262). -/
  | jmp (aa : BitVec 7)
  /-- `CALL aa` (R263). -/
  | call (aa : BitVec 7)
  deriving DecidableEq, Repr

end Sys2Proof
end

