-- ==== Sys2Proof/WellFormed.lean ====
section
/-! DEFINITION. WellFormed.lean: which terms of Instr stand for words of a variant. -/

namespace Sys2Proof

open Machine

/-- The instruction stands for its words under variant `v`. T0's rows are rows of T0 only (R101). The generic row
`BYTE` stands for a byte of class N and `PREFIX2` for a pair whose first byte is of class P (R97); under T0 they stand
only for what no row of T0 selects, since T0's rows are selected first (R240, R265). -/
def Instr.wellFormed (v : Variant) (i : Instr) : Bool :=
  match i with
  | .byte o => !opIsPrefix v o && (decide (v ≠ .t0) || t0Unmapped o)
  | .prefix2 p q => opIsPrefix v p && (decide (v ≠ .t0) || decide (0x80#8 ≤ q))
  | .nop => decide (v = .t0)
  | .nop2 => decide (v = .t0)
  | .skip => decide (v = .t0)
  | .skc => decide (v = .t0)
  | .sc => decide (v = .t0)
  | .rc => decide (v = .t0)
  | .sci => decide (v = .t0)
  | .rci => decide (v = .t0)
  | .ret => decide (v = .t0)
  | .retsk => decide (v = .t0)
  | .ld => decide (v = .t0)
  | .st => decide (v = .t0)
  | .xab => decide (v = .t0)
  | .lapp => decide (v = .t0)
  | .skaz => decide (v = .t0)
  | .adc => decide (v = .t0)
  | .lai _ => decide (v = .t0)
  | .lb _ => decide (v = .t0)
  | .lbi _ => decide (v = .t0)
  | .adi _ => decide (v = .t0)
  | .lar => decide (v = .t0)
  | .jmp _ => decide (v = .t0)
  | .call _ => decide (v = .t0)

end Sys2Proof
end

