-- ==== Sys2Proof/Decode.lean ====
section
/-! DEFINITION. Decode.lean: bytes to instructions (30_encoding.md R91 to R101, 45_reference_variant_t0.md R240), and
the encoder. -/

namespace Sys2Proof

open Machine

/-- One row of T0's opcode table: a byte `x` selects the row when `x & mask = value` (R101). `build` makes the
instruction from the first byte and the byte after it. -/
structure Row where
  mask : Byte
  value : Byte
  build : Byte → Byte → Instr

/-- The constant `n` of a one-byte instruction: bits 3..0 (R258 to R261). -/
def fieldN (b : Byte) : Nibble := b.extractLsb' 0 4

/-- The address field `aa` of a two-byte instruction: bits 6..0 of the second byte (R262, R263). -/
def fieldAA (b : Byte) : BitVec 7 := b.extractLsb' 0 7

/-- A two-byte row also fixes bit 7 of the second byte at 0 (R101); with bit 7 set T0 has no instruction (R265) and
the pair is the generic row's. -/
def twoByte (make : BitVec 7 → Instr) (b0 b1 : Byte) : Instr :=
  if b1.getLsbD 7 then .prefix2 b0 b1 else make (fieldAA b1)

/-- T0's rows whose first byte has no field (R242 to R257). -/
def t0FixedRows : List Row :=
  [⟨0xFF#8, 0x00#8, fun _ _ => .nop⟩, ⟨0xFF#8, 0x01#8, fun _ _ => .nop2⟩,
   ⟨0xFF#8, 0x02#8, fun _ _ => .skip⟩, ⟨0xFF#8, 0x03#8, fun _ _ => .skc⟩,
   ⟨0xFF#8, 0x04#8, fun _ _ => .sc⟩, ⟨0xFF#8, 0x05#8, fun _ _ => .rc⟩,
   ⟨0xFF#8, 0x06#8, fun _ _ => .sci⟩, ⟨0xFF#8, 0x07#8, fun _ _ => .rci⟩,
   ⟨0xFF#8, 0x08#8, fun _ _ => .ret⟩, ⟨0xFF#8, 0x09#8, fun _ _ => .retsk⟩,
   ⟨0xFF#8, 0x0A#8, fun _ _ => .ld⟩, ⟨0xFF#8, 0x0B#8, fun _ _ => .st⟩,
   ⟨0xFF#8, 0x0C#8, fun _ _ => .xab⟩, ⟨0xFF#8, 0x0D#8, fun _ _ => .lapp⟩,
   ⟨0xFF#8, 0x0E#8, fun _ _ => .skaz⟩, ⟨0xFF#8, 0x0F#8, fun _ _ => .adc⟩]

/-- T0's rows with a 4-bit constant, `LAR`, and the two-byte rows (R258 to R264). -/
def t0FieldRows : List Row :=
  [⟨0xF0#8, 0x10#8, fun b _ => .lai (fieldN b)⟩, ⟨0xF0#8, 0x20#8, fun b _ => .lb (fieldN b)⟩,
   ⟨0xF0#8, 0x30#8, fun b _ => .lbi (fieldN b)⟩, ⟨0xF0#8, 0x40#8, fun b _ => .adi (fieldN b)⟩,
   ⟨0xFF#8, 0x50#8, fun _ _ => .lar⟩,
   ⟨0xFF#8, 0x80#8, twoByte .jmp⟩, ⟨0xFF#8, 0x81#8, twoByte .call⟩]

/-- The 23 rows of T0, in the table's order (R101). -/
def t0Rows : List Row := t0FixedRows ++ t0FieldRows

/-- The generic reading of a byte and the byte after it (R94, R97): class P begins a two-byte instruction, class N is
one by itself. -/
def genericPair (v : Variant) (b0 b1 : Byte) : Instr :=
  if opIsPrefix v b0 then .prefix2 b0 b1 else .byte b0

/-- T0's reading: the first row that selects the first byte, else the generic row (R240, R265). -/
def t0Pair (b0 b1 : Byte) : Instr :=
  match t0Rows.find? (fun r => b0 &&& r.mask == r.value) with
  | some r => r.build b0 b1
  | none => genericPair .t0 b0 b1

/-- The instruction that begins with `b0`, where `b1` is the byte after it (not looked at when `b0` is of class N). -/
def decodePair (v : Variant) (b0 b1 : Byte) : Instr :=
  match v with
  | .t0 => t0Pair b0 b1
  | .probe => genericPair .probe b0 b1
  | .other n => genericPair (.other n) b0 b1

/-- Why a byte list holds no instruction. -/
inductive Reject where
  /-- There is no byte. Safe: nothing is given a meaning. -/
  | noByte
  /-- A class P byte with no byte after it (R92). Safe: nothing is given a meaning. -/
  | secondByteMissing (first : Byte)
  deriving DecidableEq, Repr

/-- The first instruction of a byte list, lowest address first, and the bytes after it: two bytes long when
`op_is_prefix` of the first byte is true, one byte otherwise (R94). -/
def decode (v : Variant) (bytes : List Byte) : Except Reject (Instr × List Byte) :=
  match bytes with
  | [] => .error .noByte
  | b0 :: rest =>
    if opIsPrefix v b0 then
      match rest with
      | [] => .error (.secondByteMissing b0)
      | b1 :: after => .ok (decodePair v b0 b1, after)
    else .ok (decodePair v b0 0#8, rest)

/-- A one-byte instruction with a constant: the high nibble is the operation (R258 to R261). -/
def withN (high n : Nibble) : List Byte := [high ++ n]

/-- A two-byte instruction with an address: bit 7 of the second byte is 0 (R262, R263). -/
def withAA (first : Byte) (aa : BitVec 7) : List Byte := [first, 0#1 ++ aa]

/-- The bytes of an instruction, lowest address first, from the encodings of R242 to R264, R91 and R92. -/
def encode (i : Instr) : List Byte :=
  match i with
  | .byte o => [o]
  | .prefix2 p q => [p, q]
  | .nop => [0x00#8]
  | .nop2 => [0x01#8]
  | .skip => [0x02#8]
  | .skc => [0x03#8]
  | .sc => [0x04#8]
  | .rc => [0x05#8]
  | .sci => [0x06#8]
  | .rci => [0x07#8]
  | .ret => [0x08#8]
  | .retsk => [0x09#8]
  | .ld => [0x0A#8]
  | .st => [0x0B#8]
  | .xab => [0x0C#8]
  | .lapp => [0x0D#8]
  | .skaz => [0x0E#8]
  | .adc => [0x0F#8]
  | .lai n => withN 0x1#4 n
  | .lb n => withN 0x2#4 n
  | .lbi n => withN 0x3#4 n
  | .adi n => withN 0x4#4 n
  | .lar => [0x50#8]
  | .jmp aa => withAA 0x80#8 aa
  | .call aa => withAA 0x81#8 aa

/-- The two bytes, first byte first, of an instruction whose bits are `w` in the table's numbering: bit 0 is the least
significant bit of the first byte, the second byte is bits 15..8, and every bit from `nbits` up is 0. -/
def tableBytes (nbits w : Nat) : Byte × Byte :=
  let bits := w % 2 ^ nbits
  (BitVec.ofNat 8 bits, BitVec.ofNat 8 (bits / 256))

/-- The instruction the decoder reads from an instruction whose bits are `w`, as T0, the variant of the table's rows. -/
def decodeTableWord (nbits w : Nat) : Option Instr :=
  if nbits = 0 then none
  else
    match decode .t0 [(tableBytes nbits w).1, (tableBytes nbits w).2] with
    | .ok (i, _) => some i
    | .error _ => none

end Sys2Proof
end

