-- ==== Sys2Proof/Machine/Operands.lean ====
section
/-! DEFINITION. Machine/Operands.lean: the operand forms of T0 (45_reference_variant_t0.md R252 to R264): what is cut
out of a byte or an address, what is widened, and the 5-bit sums of R257 and R261. -/

namespace Sys2Proof.Machine

/-- `v[3:0]` of a data byte: the high four bits are dropped (R252, R257). -/
def lowNibble (v : Byte) : Nibble := v.extractLsb' 0 4

/-- `v[3:0]` of a data address (R264). -/
def addressNibble (v : Nat) : Nibble := BitVec.ofNat 4 v

/-- `zext_8(v)` (R253). -/
def nibbleByte (v : Nibble) : Byte := v.setWidth 8

/-- `zext_5(x) + zext_5(y) + zext_5(carry)` (R257; with carry 0, R261). -/
def sum5 (x y : Nibble) (carry : Bit) : BitVec 5 := x.setWidth 5 + y.setWidth 5 + carry.setWidth 5

/-- `t[3:0]` (R257, R261). -/
def sumNibble (t : BitVec 5) : Nibble := t.extractLsb' 0 4

/-- `t[4]`, the carry out (R257, R261). -/
def sumCarry (t : BitVec 5) : Nat := (t.extractLsb' 4 1).toNat

end Sys2Proof.Machine
end

