-- ==== Sys2Proof/Machine/Memory.lean ====
section
/-! DEFINITION. Machine/Memory.lean: one address space behind the Memory Port, as plain memory (20_memory.md R60 to
R65), a canonical list of cells. -/

namespace Sys2Proof.Machine

/-- The cells of one space that do not hold what an unlisted address reads as, in rising order of address. -/
abbrev Memory := List Host.Cell

/-- What an address that is not listed reads as: 00, as R241 says of program bytes not listed. For data memory the spec
gives no content (U9); DESIGN CHOICE, log 3, unsafe. -/
def unlisted : Byte := 0x00#8

/-- The byte at an address: the port's `read` (R60, R65). -/
def readByte (m : Memory) (addr : Nat) : Byte :=
  match m with
  | [] => unlisted
  | (k, x) :: rest => if k = addr then x else readByte rest addr

/-- A cell, unless it holds what an unlisted address reads as. -/
def listed (addr : Nat) (v : Byte) : Memory := if v = unlisted then [] else [(addr, v)]

/-- Replace the byte at an address: the port's `write` (R60, R65). Keeps the canonical form. -/
def writeByte (m : Memory) (addr : Nat) (v : Byte) : Memory :=
  match m with
  | [] => listed addr v
  | (k, x) :: rest =>
    if addr < k then listed addr v ++ (k, x) :: rest
    else if addr = k then listed addr v ++ rest
    else (k, x) :: writeByte rest addr v

/-- The canonical form above a bound: every listed address is at least `low`, addresses rise strictly, and no cell
holds what an unlisted address reads as. -/
def canonicalFrom (low : Nat) (m : Memory) : Bool :=
  match m with
  | [] => true
  | (k, x) :: rest => decide (low ≤ k) && decide (x ≠ unlisted) && canonicalFrom (k + 1) rest

/-- The canonical form. -/
def Memory.wf (m : Memory) : Bool := canonicalFrom 0 m

/-- Every listed address lies in a space whose highest address is `top` (R61, R62). -/
def Memory.within (top : Nat) (m : Memory) : Bool := m.all (fun cell => decide (cell.1 ≤ top))

end Sys2Proof.Machine
end

