-- ==== Sys2Proof/Machine/State.lean ====
section
/-! DEFINITION. Machine/State.lean: the state of the machine (10_state.md R21), the ways a step can stop, and reset
(70_reset_and_hazards.md R310). -/

namespace Sys2Proof.Machine

/-- The machine: the 25 fields of R21, with the configuration (R8), the two memories behind the ports (R61, R62) and
the variant's private state (R220). Addresses are numbers; the operations mask them (R64, log 16). -/
structure State where
  /-- The construction-time configuration (R8); no step changes it. Log 1. -/
  cfg : Config
  /-- Program memory (R61). -/
  prog : Memory
  /-- Data memory (R62). -/
  data : Memory
  /-- The variant's private state (R220). Its form is log 7; that it ages in no suppressed slot is log 17. -/
  priv : List Nat
  /-- Address of the next byte to fetch (R22). -/
  pc : Nat
  /-- Address of the byte fetched in the current slot (R23). -/
  prevPc : Nat
  /-- Byte fetched in the current slot (R24). -/
  op : Byte
  /-- Byte fetched one slot earlier (R24). -/
  prevOp : Byte
  /-- Byte fetched two slots earlier (R24). -/
  prev2Op : Byte
  /-- Older return address (R25). -/
  stack0 : Nat
  /-- Newer return address when two are held (R25). -/
  stack1 : Nat
  /-- Number of occupied stack levels, 0 to 2 (R25). -/
  sp : Fin 3
  /-- Accumulator (R26). -/
  a : Nibble
  /-- `a` at the start of the current slot (R26). -/
  prevA : Nibble
  /-- `a` at the start of the previous slot (R26). -/
  prev2A : Nibble
  /-- B register (R27). -/
  b : Nibble
  /-- `b` at the start of the current slot (R27). -/
  prevB : Nibble
  /-- `b` at the start of the previous slot (R27). -/
  prev2B : Nibble
  /-- Committed data-memory address (R29). -/
  ramAddr : Nat
  /-- Staged data-memory address (R29). -/
  ramAddrIn : Nat
  /-- A staged address awaits commit (R29). -/
  ramDelay : Bool
  /-- Alternate addressing submode selected; stored only (R30). -/
  sag : Bool
  /-- Committed carry (R31). -/
  c : Bit
  /-- `c` at the start of the current slot (R31). -/
  prevC : Bit
  /-- Staged ("incoming") carry (R31). -/
  cIn : Bit
  /-- A staged carry awaits commit (R31). -/
  cDelay : Bool
  /-- A skip request is fresh: its lookahead has not been made (R32). -/
  skip : Bool
  /-- Number of upcoming fetch slots still to suppress, 0 to 2 (R32). -/
  skipCount : Fin 3
  /-- Cycles remaining in the current `run`, a mathematical integer (R33). -/
  icount : Int
  deriving DecidableEq, Repr

/-- A machine inside a fetch slot: the state and the four slot-local values of R34. None survives the slot. -/
structure Slot where
  st : State
  /-- The previous slot staged a carry that this slot's end commits (R182). -/
  cDue : Bool
  /-- That carry (R182). -/
  cDueV : Bit
  /-- The previous slot staged an address that this slot's end commits (R187). -/
  rDue : Bool
  /-- That address (R187). -/
  rDueV : Nat
  deriving DecidableEq, Repr

/-- Faults. The hardware has none (R280): both name an address that R64 says cannot be presented. Log 10. -/
inductive Fault where
  /-- Raised by the fetch when `pc` is above `PMASK`, which R36 item 1 excludes. Safe: the machine stops where the
  spec defines nothing. -/
  | programAddress (addr : Nat)
  /-- Raised by `DataRead` and `DataWrite` when `ram_addr` is above `DMASK`, which R36 item 4 excludes. Safe: the
  machine stops where the spec defines nothing. -/
  | dataAddress (addr : Nat)
  deriving DecidableEq, Repr

/-- Refusals: the inputs outside the domain on which the spec defines the machine (R296). -/
inductive Refusal where
  /-- Raised by an arm of `exec` whose instruction has no meaning in this model. Safe. -/
  | notModelled (mnemonic : String)
  /-- Raised when `execute_one` is asked for a byte to which the variant gives no instruction (R265, R284, U1). Safe:
  the spec gives it no meaning. -/
  | unmappedByte (op : Byte)
  /-- Raised by `SegLookup` when no Segment Output Port is attached (R230, U7). Safe: the spec gives it no meaning. -/
  | noSegmentPort
  /-- Raised by the host's `reset` or `run` while a `run` is in progress (R311, U8). Safe: the spec excludes it. -/
  | runInProgress
  /-- Raised by construction with `PW < 1`, `DW < 1` or `SKIP_COST < 1` (R296 item 5). Safe: the spec excludes it. -/
  | badConfiguration
  deriving DecidableEq, Repr

/-- The machine right after reset: the 25 fields are 0 (R39, R310). The configuration is T0's (R240; DESIGN CHOICE,
log 1), no memory cell is listed (log 3), the variant has no private state (R240; log 7). -/
def State.reset : State where
  cfg := .t0
  prog := []
  data := []
  priv := []
  pc := 0
  prevPc := 0
  op := 0x00#8
  prevOp := 0x00#8
  prev2Op := 0x00#8
  stack0 := 0
  stack1 := 0
  sp := 0
  a := 0#4
  prevA := 0#4
  prev2A := 0#4
  b := 0#4
  prevB := 0#4
  prev2B := 0#4
  ramAddr := 0
  ramAddrIn := 0
  ramDelay := false
  sag := false
  c := 0#1
  prevC := 0#1
  cIn := 0#1
  cDelay := false
  skip := false
  skipCount := 0
  icount := 0

end Sys2Proof.Machine
end

