-- ==== Sys2Proof/Machine/Flags.lean ====
section
/-! DEFINITION. Machine/Flags.lean: the carry latch (43_delay_latches.md R182 to R186) and the skip fields
(41_skip.md R141, R143). The hardware has no other flag (10_state.md R31, R32). -/

namespace Sys2Proof.Machine

/-- The bit a carry write uses: bit 0 of its operand, `v & 1` (R185, R186). -/
def carryBit (v : Nat) : Bit := BitVec.ofNat 1 v

/-- `CarryRead()`: the committed carry (R184). -/
def carryRead (s : State) : Bit := s.c

/-- `CarryInRead()`: the most recently written carry, committed or not (R184). -/
def carryInRead (s : State) : Bit := s.cIn

/-- `CarryWriteDelayed(v)` (R185). -/
def carryWriteDelayed (v : Nat) (s : State) : State := { s with cIn := carryBit v, cDelay := true }

/-- `CarryWriteImmediate(v)` (R186): the commit due at the end of this slot is cancelled. -/
def carryWriteImmediate (v : Nat) (t : Slot) : Slot :=
  { t with st := { t.st with c := carryBit v, cIn := carryBit v, cDelay := false }, cDue := false }

/-- Carry commit, phase S5 (R183). -/
def commitCarry (t : Slot) (s : State) : State := if t.cDue then { s with c := t.cDueV } else s

/-- `SkipRequest()` (R141). -/
def skipRequest (s : State) : State := { s with skip := true, skipCount := 1 }

/-- One less, but not below 0: the level count of `Pop` and the skip count of a suppressed slot (R143, R166). -/
def countDown (n : Fin 3) : Fin 3 := ⟨n.val - 1, by omega⟩

/-- One more, but not above 2: the level count of `Push` (R166). -/
def countUp (n : Fin 3) : Fin 3 := ⟨min (n.val + 1) 2, by omega⟩

/-- The skip count after the lookahead: raised to 2 when the request is fresh and the byte just fetched is a prefix
byte (R143, R144). -/
def lookahead (s : State) : Fin 3 := if s.skip && opIsPrefix s.cfg.variant s.op then 2 else s.skipCount

/-- Suppression, phase S4 of a slot that begins with `skip_count > 0` (R143). -/
def suppress (s : State) : State := { s with skip := false, skipCount := countDown (lookahead s) }

end Sys2Proof.Machine
end

