-- ==== Sys2Proof/Machine/Ops.lean ====
section
/-! DEFINITION. Machine/Ops.lean: the named operations over registers and memory: the program counter, the call stack
(42_stack.md), the RAM address latch (43_delay_latches.md), the ports (20_memory.md, 44_decode_contract.md) and the
phases every slot runs (40_sequencer.md R112). The hardware takes no exception and returns from none
(60_exceptions.md R280, R288, R289), so no operation for one stands here. -/

namespace Sys2Proof.Machine

/-- `v & PMASK`: an address truncated to `PW` bits (R216, R161). -/
def maskP (g : Config) (v : Nat) : Nat := v &&& g.pmask

/-- `v & DMASK`: an address truncated to `DW` bits (R190, R191). -/
def maskD (g : Config) (v : Nat) : Nat := v &&& g.dmask

/-- `PcLoad(t)` (R216). -/
def pcLoad (target : Nat) (s : State) : State := { s with pc := maskP s.cfg target }

/-- `Push(v)` (R161): at two levels the older entry is discarded. -/
def push (v : Nat) (s : State) : State :=
  if s.sp = 2 then { s with stack0 := s.stack1, stack1 := maskP s.cfg v }
  else if s.sp = 0 then { s with stack0 := maskP s.cfg v, sp := countUp s.sp }
  else { s with stack1 := maskP s.cfg v, sp := countUp s.sp }

/-- What `Pop()` returns: `stack[sp]`, `sp` as just updated (R162); with an empty stack the stale `stack[0]` (R163). -/
def popped (s : State) : Nat := if countDown s.sp = 0 then s.stack0 else s.stack1

/-- What `Pop()` leaves: only the level count changes (R162). -/
def pop (s : State) : State := { s with sp := countDown s.sp }

/-- `RamAddrRead()`: the committed address (R189). -/
def ramAddrRead (s : State) : Nat := s.ramAddr

/-- `RamAddrWriteDelayed(v)` (R190). -/
def ramAddrWriteDelayed (v : Nat) (s : State) : State :=
  { s with ramAddrIn := maskD s.cfg v, ramDelay := true }

/-- `RamAddrWriteImmediate(v)` (R191): the commit due at the end of this slot is cancelled. -/
def ramAddrWriteImmediate (v : Nat) (t : Slot) : Slot :=
  { t with
    st := { t.st with ramAddr := maskD t.st.cfg v, ramAddrIn := maskD t.st.cfg v, ramDelay := false }
    rDue := false }

/-- RAM-address commit, phase S5 (R188). -/
def commitRamAddr (t : Slot) (s : State) : State := if t.rDue then { s with ramAddr := t.rDueV } else s

/-- The location `DataRead` and `DataWrite` access: the committed RAM address, whatever `sag` holds (R228, R229, R30);
none if it is outside data space, which R64 excludes (log 10). -/
def dataAddress (s : State) : Option Nat := if s.ramAddr ≤ s.cfg.dmask then some s.ramAddr else none

/-- The location the fetch reads: `pc` (R114); none if it is outside program space, which R64 excludes (log 10). -/
def fetchAddress (s : State) : Option Nat := if s.pc ≤ s.cfg.pmask then some s.pc else none

/-- `DataWrite(v)` at a location of data space (R229). -/
def dataWrite (addr : Nat) (v : Byte) (s : State) : State := { s with data := writeByte s.data addr v }

/-- `ProgRead(addr)` (R231). -/
def progRead (addr : Nat) (s : State) : Byte := readByte s.prog (maskP s.cfg addr)

/-- `ProgWrite(addr, v)` (R231): the next fetch of that location sees it (R79). -/
def progWrite (addr : Nat) (v : Byte) (s : State) : State :=
  { s with prog := writeByte s.prog (maskP s.cfg addr) v }

/-- Phase S1, snapshot (R113). -/
def snapshot (s : State) : State :=
  { s with
    prevPc := s.pc
    prev2A := s.prevA
    prevA := s.a
    prev2B := s.prevB
    prevB := s.b
    prevC := s.c }

/-- Phase S2, latch ageing (R182, R187). -/
def age (s : State) : Slot :=
  { st := { s with cDelay := false, ramDelay := false }
    cDue := s.cDelay
    cDueV := s.cIn
    rDue := s.ramDelay
    rDueV := s.ramAddrIn }

/-- Phase S3 once the byte is read: advance `pc` with silent wrap and shift the opcode history (R114, R115). -/
def advance (byte : Byte) (s : State) : State :=
  { s with pc := maskP s.cfg (s.pc + 1), prev2Op := s.prevOp, prevOp := s.op, op := byte }

/-- Phases S1 to S3 of a slot that fetched `byte` (R112). -/
def beginSlot (byte : Byte) (s : State) : Slot :=
  let t := age (snapshot s)
  { t with st := advance byte t.st }

/-- Phase S5, commit (R183, R188). -/
def commit (t : Slot) : State := commitRamAddr t (commitCarry t t.st)

/-- Phase S6, budget (R118). -/
def charge (cost : Int) (s : State) : State := { s with icount := s.icount - cost }

/-- Phases S5 and S6 (R112). -/
def endSlot (cost : Int) (t : Slot) : State := charge cost (commit t)

end Sys2Proof.Machine
end

