-- ==== Sys2Proof/Machine/Slot.lean ====
section
/-! DEFINITION. Machine/Slot.lean: what an execute_one call does to the machine inside a slot (44_decode_contract.md
R214, R223, R232), and the executed and the suppressed slot (40_sequencer.md R112, R116, R117; 41_skip.md R143). -/

namespace Sys2Proof.Machine

/-- A slot with its state replaced. -/
def Slot.with (t : Slot) (s : State) : Slot := { t with st := s }

/-- Perform one `execute_one` call inside a slot, phase S4: each access in order, each seeing those before it (R12,
R232). Answers the slot after the call and the cost. -/
def perform (x : Action) (t : Slot) : Host.Outcome (Slot × Cost) Fault Refusal :=
  match x with
  | .done cost => .next (t, cost)
  | .unmapped => .refused (.unmappedByte t.st.op)
  | .readOp k => perform (k t.st.op) t
  | .readPrevOp k => perform (k t.st.prevOp) t
  | .readPrev2Op k => perform (k t.st.prev2Op) t
  | .readPc k => perform (k t.st.pc) t
  | .readPrevPc k => perform (k t.st.prevPc) t
  | .readA k => perform (k t.st.a) t
  | .readB k => perform (k t.st.b) t
  | .readPrevA k => perform (k t.st.prevA) t
  | .readPrev2A k => perform (k t.st.prev2A) t
  | .readPrevB k => perform (k t.st.prevB) t
  | .readPrev2B k => perform (k t.st.prev2B) t
  | .readPrevC k => perform (k t.st.prevC) t
  | .readSag k => perform (k t.st.sag) t
  | .writeA v k => perform k (t.with { t.st with a := v })
  | .writeB v k => perform k (t.with { t.st with b := v })
  | .writeSag v k => perform k (t.with { t.st with sag := v })
  | .pcLoad target k => perform k (t.with (pcLoad target t.st))
  | .push v k => perform k (t.with (push v t.st))
  | .pop k => perform (k (popped t.st)) (t.with (pop t.st))
  | .skipRequest k => perform k (t.with (skipRequest t.st))
  | .carryRead k => perform (k (carryRead t.st)) t
  | .carryInRead k => perform (k (carryInRead t.st)) t
  | .carryWriteDelayed v k => perform k (t.with (carryWriteDelayed v t.st))
  | .carryWriteImmediate v k => perform k (carryWriteImmediate v t)
  | .ramAddrRead k => perform (k (ramAddrRead t.st)) t
  | .ramAddrWriteDelayed v k => perform k (t.with (ramAddrWriteDelayed v t.st))
  | .ramAddrWriteImmediate v k => perform k (ramAddrWriteImmediate v t)
  | .dataRead k =>
    match dataAddress t.st with
    | some addr => perform (k (readByte t.st.data addr)) t
    | none => .fault (.dataAddress t.st.ramAddr)
  | .dataWrite v k =>
    match dataAddress t.st with
    | some addr => perform k (t.with (dataWrite addr v t.st))
    | none => .fault (.dataAddress t.st.ramAddr)
  | .progRead addr k => perform (k (progRead addr t.st)) t
  | .progWrite addr v k => perform k (t.with (progWrite addr v t.st))
  | .segLookup v k => if t.st.cfg.hasSeg then perform (k (Config.seg v)) t else .refused .noSegmentPort
  | .readPriv k => perform (k t.st.priv) t
  | .writePriv v k => perform k (t.with { t.st with priv := v })

/-- The cycles of a cost (R213). -/
def costCycles (cost : Cost) : Int :=
  match cost with
  | .one => 1
  | .two => 2

/-- An executed slot: the slot that fetched `byte` and whose `execute_one` call is `x` (R112, R117). -/
def executedSlot (byte : Byte) (x : Action) (s : State) : Host.Outcome State Fault Refusal :=
  match perform x (beginSlot byte s) with
  | .next (t, cost) => .next (endSlot (costCycles cost) t)
  | .fault r => .fault r
  | .refused r => .refused r

/-- A suppressed slot: the slot that fetched `byte` and did not hand it to `execute_one` (R112, R143, R145). -/
def suppressedSlot (byte : Byte) (s : State) : State :=
  let t := beginSlot byte s
  endSlot s.cfg.skipCost (t.with (suppress t.st))

/-- The byte of an instruction that a slot fetches, given the byte fetched in the slot before. A two-byte instruction
takes two slots (R92); its second byte is fetched in the slot that finds its first byte in `prev_op` (R69, R94,
R240). DEDUCED, log 5. -/
def slotByte (i : Instr) (before : Byte) : Byte :=
  match encode i with
  | [] => 0x00#8
  | [x] => x
  | x :: y :: _ => if before = x then y else x

/-- The slot of instruction `i` whose `execute_one` call is `x`. -/
def instrSlot (i : Instr) (x : Action) (s : State) : Host.Outcome State Fault Refusal :=
  executedSlot (slotByte i s.op) x s

end Sys2Proof.Machine
end

