-- ==== Sys2Proof/Machine/AccOps.lean ====
section
/-! DEFINITION. Machine/AccOps.lean: XAB, LAPP, ADC, LAI, ADI (45_reference_variant_t0.md R254, R255, R257, R258,
R261). -/

namespace Sys2Proof.Machine

/-- `XAB`: exchange `a` and `b`; the RAM address latch is not touched (R254). -/
def actXab : Action := .readA fun t => .readB fun b => .writeA b (.writeB t (.done .one))

/-- `XAB` (R254). -/
def execXab (s : State) : Host.Outcome State Fault Refusal := instrSlot .xab actXab s

/-- `LAPP`: the accumulator's value at the start of the previous slot (R255). -/
def actLapp : Action := .readPrev2A fun v => .writeA v (.done .one)

/-- `LAPP` (R255). -/
def execLapp (s : State) : Host.Outcome State Fault Refusal := instrSlot .lapp actLapp s

/-- `ADC`: add the data nibble and the incoming carry; stage the carry out (R257). -/
def actAdc : Action :=
  .readA fun a => .dataRead fun v => .carryInRead fun ci =>
    .writeA (sumNibble (sum5 a (lowNibble v) ci))
      (.carryWriteDelayed (sumCarry (sum5 a (lowNibble v) ci)) (.done .one))

/-- `ADC` (R257). -/
def execAdc (s : State) : Host.Outcome State Fault Refusal := instrSlot .adc actAdc s

/-- `LAI n` (R258). -/
def actLai (n : Nibble) : Action := .writeA n (.done .one)

/-- `LAI n` (R258). -/
def execLai (n : Nibble) (s : State) : Host.Outcome State Fault Refusal := instrSlot (.lai n) (actLai n) s

/-- `ADI n`: add a constant; stage the carry out (R261). -/
def actAdi (n : Nibble) : Action :=
  .readA fun a =>
    .writeA (sumNibble (sum5 a n 0#1)) (.carryWriteDelayed (sumCarry (sum5 a n 0#1)) (.done .one))

/-- `ADI n` (R261). -/
def execAdi (n : Nibble) (s : State) : Host.Outcome State Fault Refusal := instrSlot (.adi n) (actAdi n) s

end Sys2Proof.Machine
end

