-- ==== Sys2Proof/Machine/CarryOps.lean ====
section
/-! DEFINITION. Machine/CarryOps.lean: SC, RC, SCI, RCI (45_reference_variant_t0.md R246 to R249). -/

namespace Sys2Proof.Machine

/-- `SC`: stage a carry of 1 (R246). -/
def actSc : Action := .carryWriteDelayed 1 (.done .one)

/-- `SC` (R246). -/
def execSc (s : State) : Host.Outcome State Fault Refusal := instrSlot .sc actSc s

/-- `RC`: stage a carry of 0 (R247). -/
def actRc : Action := .carryWriteDelayed 0 (.done .one)

/-- `RC` (R247). -/
def execRc (s : State) : Host.Outcome State Fault Refusal := instrSlot .rc actRc s

/-- `SCI`: set the carry at once (R248). -/
def actSci : Action := .carryWriteImmediate 1 (.done .one)

/-- `SCI` (R248). -/
def execSci (s : State) : Host.Outcome State Fault Refusal := instrSlot .sci actSci s

/-- `RCI`: clear the carry at once (R249). -/
def actRci : Action := .carryWriteImmediate 0 (.done .one)

/-- `RCI` (R249). -/
def execRci (s : State) : Host.Outcome State Fault Refusal := instrSlot .rci actRci s

end Sys2Proof.Machine
end

