-- ==== Sys2Proof/Machine/DataOps.lean ====
section
/-! DEFINITION. Machine/DataOps.lean: LD, ST, LB, LBI, LAR (45_reference_variant_t0.md R252, R253, R259, R260,
R264). -/

namespace Sys2Proof.Machine

/-- `LD`: the low nibble of the data byte (R252). -/
def actLd : Action := .dataRead fun v => .writeA (lowNibble v) (.done .one)

/-- `LD` (R252). -/
def execLd (s : State) : Host.Outcome State Fault Refusal := instrSlot .ld actLd s

/-- `ST`: the accumulator, widened with zeros (R253). -/
def actSt : Action := .readA fun a => .dataWrite (nibbleByte a) (.done .one)

/-- `ST` (R253). -/
def execSt (s : State) : Host.Outcome State Fault Refusal := instrSlot .st actSt s

/-- `LB n`: `b` at once, the data address for the slot after next (R259). -/
def actLb (n : Nibble) : Action := .writeB n (.ramAddrWriteDelayed n.toNat (.done .one))

/-- `LB n` (R259). -/
def execLb (n : Nibble) (s : State) : Host.Outcome State Fault Refusal := instrSlot (.lb n) (actLb n) s

/-- `LBI n`: `b` and the data address at once (R260). -/
def actLbi (n : Nibble) : Action := .writeB n (.ramAddrWriteImmediate n.toNat (.done .one))

/-- `LBI n` (R260). -/
def execLbi (n : Nibble) (s : State) : Host.Outcome State Fault Refusal := instrSlot (.lbi n) (actLbi n) s

/-- `LAR`: the low nibble of the committed data address (R264). -/
def actLar : Action := .ramAddrRead fun r => .writeA (addressNibble r) (.done .one)

/-- `LAR` (R264). -/
def execLar (s : State) : Host.Outcome State Fault Refusal := instrSlot .lar actLar s

end Sys2Proof.Machine
end

