-- ==== Sys2Proof/Machine/FlowOps.lean ====
section
/-! DEFINITION. Machine/FlowOps.lean: RET, RETSK, JMP, CALL (45_reference_variant_t0.md R250, R251, R262, R263). -/

namespace Sys2Proof.Machine

/-- `RET`: `PcLoad(Pop())` (R250). -/
def actRet : Action := .pop fun v => .pcLoad v (.done .one)

/-- `RET` (R250). -/
def execRet (s : State) : Host.Outcome State Fault Refusal := instrSlot .ret actRet s

/-- `RETSK`: return and skip the instruction at the return address, cost 2 (R251). -/
def actRetsk : Action := .pop fun v => .pcLoad v (.skipRequest (.done .two))

/-- `RETSK` (R251). -/
def execRetsk (s : State) : Host.Outcome State Fault Refusal := instrSlot .retsk actRetsk s

/-- `JMP`: the slot of the first byte has no effect; the slot of the second, selected by `prev_op = 0x80`, is
`PcLoad(op)`; each costs 1 (R262). -/
def actJmp : Action :=
  .readPrevOp fun p => if p = 0x80#8 then .readOp fun o => .pcLoad o.toNat (.done .one) else .done .one

/-- `JMP aa` (R262). -/
def execJmp (aa : BitVec 7) (s : State) : Host.Outcome State Fault Refusal := instrSlot (.jmp aa) actJmp s

/-- `CALL`: the slot of the first byte has no effect; the slot of the second, selected by `prev_op = 0x81`, is
`Push(pc); PcLoad(op)`; each costs 1 (R263). -/
def actCall : Action :=
  .readPrevOp fun p =>
    if p = 0x81#8 then .readPc fun ret => .push ret (.readOp fun o => .pcLoad o.toNat (.done .one))
    else .done .one

/-- `CALL aa` (R263). -/
def execCall (aa : BitVec 7) (s : State) : Host.Outcome State Fault Refusal := instrSlot (.call aa) actCall s

end Sys2Proof.Machine
end

