-- ==== Sys2Proof/Machine/SkipOps.lean ====
section
/-! DEFINITION. Machine/SkipOps.lean: NOP, NOP2, SKIP, SKC, SKAZ (45_reference_variant_t0.md R242 to R245, R256). For
each instruction, first what its execute_one call does, then the whole slot. -/

namespace Sys2Proof.Machine

/-- `NOP`: cost 1 (R242). -/
def actNop : Action := .done .one

/-- `NOP` (R242). -/
def execNop (s : State) : Host.Outcome State Fault Refusal := instrSlot .nop actNop s

/-- `NOP2`: cost 2 (R243). -/
def actNop2 : Action := .done .two

/-- `NOP2` (R243). -/
def execNop2 (s : State) : Host.Outcome State Fault Refusal := instrSlot .nop2 actNop2 s

/-- `SKIP`: unconditional skip of the next instruction (R244). -/
def actSkip : Action := .skipRequest (.done .one)

/-- `SKIP` (R244). -/
def execSkip (s : State) : Host.Outcome State Fault Refusal := instrSlot .skip actSkip s

/-- `SKC`: skip if the committed carry is 1 (R245). -/
def actSkc : Action := .carryRead fun c => if c = 1#1 then .skipRequest (.done .one) else .done .one

/-- `SKC` (R245). -/
def execSkc (s : State) : Host.Outcome State Fault Refusal := instrSlot .skc actSkc s

/-- `SKAZ`: skip if `a` is 0 (R256). -/
def actSkaz : Action := .readA fun a => if a = 0#4 then .skipRequest (.done .one) else .done .one

/-- `SKAZ` (R256). -/
def execSkaz (s : State) : Host.Outcome State Fault Refusal := instrSlot .skaz actSkaz s

end Sys2Proof.Machine
end

