-- ==== Sys2Proof/Machine/Contracts.lean ====
section
/-! DEFINITION. Machine/Contracts.lean: the Decode Contracts (44_decode_contract.md R210): T0's execute_one
(45_reference_variant_t0.md R240), the probe contract, and the contract of a variant by number; and the two generic
rows BYTE and PREFIX2, whose slot calls the execute_one of the machine's variant (40_sequencer.md R117). -/

namespace Sys2Proof.Machine

/-- What T0 does for each instruction (R240 to R265). A generic row under T0 is a byte or pair T0 has no instruction
for: the slot of a first byte of class P has no effect (R262, R263), any other such byte has no meaning (R265). -/
def t0Action (i : Instr) : Action :=
  match i with
  | .byte _ => .unmapped
  | .prefix2 p _ => .readPrevOp fun before => if before = p then .unmapped else .done .one
  | .nop => actNop
  | .nop2 => actNop2
  | .skip => actSkip
  | .skc => actSkc
  | .sc => actSc
  | .rc => actRc
  | .sci => actSci
  | .rci => actRci
  | .ret => actRet
  | .retsk => actRetsk
  | .ld => actLd
  | .st => actSt
  | .xab => actXab
  | .lapp => actLapp
  | .skaz => actSkaz
  | .adc => actAdc
  | .lai n => actLai n
  | .lb n => actLb n
  | .lbi n => actLbi n
  | .adi n => actAdi n
  | .lar => actLar
  | .jmp _ => actJmp
  | .call _ => actCall

/-- T0's `execute_one` (R240): the second-byte test on `prev_op` comes first, then the row that selects `op`. -/
def t0ExecuteOne : Action :=
  .readPrevOp fun p => .readOp fun o =>
    t0Action (if t0IsPrefix p then t0Pair p o else t0Pair o 0x00#8)

/-- T0's instructions by the position of the byte in `op`: a second byte acts with the prefix byte before it (R262,
R263); the slot of a prefix byte has no effect; any other byte is the row that selects it (R242 to R261, R264). -/
def t0ByPosition (second : Bool) : Action :=
  if second then
    .readPrevOp fun p => .readOp fun o => if t0IsPrefix p then t0Action (t0Pair p o) else .unmapped
  else .readOp fun o => if t0IsPrefix o then .done .one else t0Action (t0Pair o 0x00#8)

/-- T0 as a Decode Contract; it has no private state (R240). -/
def t0Contract : Contract where
  executeOne := t0ExecuteOne
  byPosition := t0ByPosition
  opIsPrefix := t0IsPrefix
  resetPriv := id

/-- The probe contract PRB (95_test_vectors.md): `execute_one` changes nothing and returns 1, in either position. -/
def probeContract : Contract where
  executeOne := .done .one
  byPosition := fun _ => .done .one
  opIsPrefix := probeIsPrefix
  resetPriv := id

/-- The Decode Contract a core was constructed with (R8, R210). -/
def contractOf (v : Variant) : Contract :=
  match v with
  | .t0 => t0Contract
  | .probe => probeContract
  | .other n => Config.contract n

/-- `BYTE`: the slot hands the byte to the variant's `execute_one` (R91, R117). -/
def execByte (opcode : Byte) (s : State) : Host.Outcome State Fault Refusal :=
  instrSlot (.byte opcode) (contractOf s.cfg.variant).executeOne s

/-- `PREFIX2`: two slots, each of which hands its byte to the variant's `execute_one`, the prefix byte first (R92,
R117). Suppressed, both are swallowed (R143), which is the suppressed slot's rule. -/
def execPrefix2 (first second : Byte) (s : State) : Host.Outcome State Fault Refusal :=
  instrSlot (.prefix2 first second) (contractOf s.cfg.variant).executeOne s

end Sys2Proof.Machine
end

