-- ==== Sys2Proof/Machine/Dispatch.lean ====
section
/-! DEFINITION. Machine/Dispatch.lean: one arm per instruction: the fetch slot in which the instruction is executed
(for a two-byte instruction, the slot of its first or of its second byte). -/

namespace Sys2Proof.Machine

def exec (i : Instr) (s : State) : Host.Outcome State Fault Refusal :=
  match i with
  | .byte opcode => Sys2Proof.Machine.execByte opcode s
  | .prefix2 first second => Sys2Proof.Machine.execPrefix2 first second s
  | .nop => Sys2Proof.Machine.execNop s
  | .nop2 => Sys2Proof.Machine.execNop2 s
  | .skip => Sys2Proof.Machine.execSkip s
  | .skc => Sys2Proof.Machine.execSkc s
  | .sc => Sys2Proof.Machine.execSc s
  | .rc => Sys2Proof.Machine.execRc s
  | .sci => Sys2Proof.Machine.execSci s
  | .rci => Sys2Proof.Machine.execRci s
  | .ret => Sys2Proof.Machine.execRet s
  | .retsk => Sys2Proof.Machine.execRetsk s
  | .ld => Sys2Proof.Machine.execLd s
  | .st => Sys2Proof.Machine.execSt s
  | .xab => Sys2Proof.Machine.execXab s
  | .lapp => Sys2Proof.Machine.execLapp s
  | .skaz => Sys2Proof.Machine.execSkaz s
  | .adc => Sys2Proof.Machine.execAdc s
  | .lai n => Sys2Proof.Machine.execLai n s
  | .lb n => Sys2Proof.Machine.execLb n s
  | .lbi n => Sys2Proof.Machine.execLbi n s
  | .adi n => Sys2Proof.Machine.execAdi n s
  | .lar => Sys2Proof.Machine.execLar s
  | .jmp aa => Sys2Proof.Machine.execJmp aa s
  | .call aa => Sys2Proof.Machine.execCall aa s

end Sys2Proof.Machine
end

