-- ==== Sys2Proof/Machine/Fetch.lean ====
section
/-! DEFINITION. Machine/Fetch.lean: the fetch of one byte (40_sequencer.md R114), which instruction the fetched byte
belongs to, and the fetch slot written from R112 with the variant's execute_one. -/

namespace Sys2Proof.Machine

/-- The byte the slot fetches: `MemRead(PROG, pc, 1)` (R114); none if `pc` is outside program space (log 10). -/
def fetchByte (s : State) : Option Byte :=
  match fetchAddress s with
  | some addr => some (readByte s.prog addr)
  | none => none

/-- The byte after the one the slot fetches (R69). It only names the operand of a two-byte instruction whose first byte
is fetched in this slot, and that slot does nothing with it: no access of the machine (R72). DEDUCED, log 6. -/
def byteAfter (s : State) : Byte := readByte s.prog (maskP s.cfg (s.pc + 1))

/-- The bytes of the instruction the fetched byte belongs to: the byte fetched before and this one when the byte
fetched before is a prefix byte (R221, R240), else this one and the one after it. -/
def instrBytes (byte : Byte) (s : State) : Byte × Byte :=
  if opIsPrefix s.cfg.variant s.op then (s.op, byte) else (byte, byteAfter s)

/-- The instruction the fetched byte belongs to. -/
def instrAt (byte : Byte) (s : State) : Instr :=
  decodePair s.cfg.variant (instrBytes byte s).1 (instrBytes byte s).2

/-- One fetch slot, S1 to S6, as R112 has it: suppressed when `skip_count > 0` (R116), else executed by one call of the
instruction the byte belongs to. -/
def runSlot (s : State) : Host.Outcome State Fault Refusal :=
  match fetchByte s with
  | none => .fault (.programAddress s.pc)
  | some byte => if s.skipCount = 0 then exec (instrAt byte s) s else .next (suppressedSlot byte s)

/-- `Slot()` of R112 for the machine's Decode Contract: as the core has it, with `execute_one` called on every
unsuppressed byte and no knowledge of instructions (R98, R117, R210). -/
def coreSlot (s : State) : Host.Outcome State Fault Refusal :=
  match fetchByte s with
  | none => .fault (.programAddress s.pc)
  | some byte =>
    if s.skipCount = 0 then executedSlot byte (contractOf s.cfg.variant).executeOne s
    else .next (suppressedSlot byte s)

/-- The two bytes of a table word in program memory where the next slots fetch, and the machine at the first byte of an
instruction that is not suppressed: no skip pending, and no prefix byte fetched in the slot before. -/
def placeWord (s : State) (nbits w : Nat) : State :=
  { s with
    prog := writeByte (writeByte s.prog (maskP s.cfg (s.pc + 1)) (tableBytes nbits w).2) s.pc (tableBytes nbits w).1
    op := if opIsPrefix s.cfg.variant s.op then 0x00#8 else s.op
    skip := false
    skipCount := 0 }

end Sys2Proof.Machine
end

