-- ==== Sys2Proof/Machine/Step.lean ====
section
/-! DEFINITION. Machine/Step.lean: one step is one fetch slot (00_scope.md R13, 40_sequencer.md R112). -/

namespace Sys2Proof.Machine

/-- One step of the machine: `Slot()` (R112). The budget decides only how many steps a `run` makes (R123), so `step`
does not look at `icount`; `hostRun` does (R110, R111). DEDUCED, log 4. -/
def step (s : State) : Host.Outcome State Fault Refusal := runSlot s

/-- The state with an instruction's table word where the next slot fetches (log 14). -/
def State.withFetchWord (s : State) (nbits w : Nat) : State := placeWord s nbits w

end Sys2Proof.Machine
end

