-- ==== Sys2Proof/Machine/Agreement.lean ====
section
/-! DEFINITION. Machine/Agreement.lean: which byte of a run is a second byte, and the agreement of a variant's two
operations (44_decode_contract.md R219 item 5, R222; 45_reference_variant_t0.md R266). The core keeps none of this: it
"cannot detect" a variant that breaks it (R222), so it is a predicate over runs and not a field of State. -/

namespace Sys2Proof.Machine

/-- The byte the slot fetches (R114), for a `pc` inside program space. -/
def nextByte (s : State) : Byte := readByte s.prog s.pc

/-- Whether the byte after this slot's is one `execute_one` must consume as a second byte (R222): the slot is executed,
its byte is not itself a second byte (R92: a second byte may have any value; DEDUCED, log 8), and `op_is_prefix` holds
of it. -/
def secondFollows (second : Bool) (s : State) : Bool :=
  decide (s.skipCount = 0) && !second && opIsPrefix s.cfg.variant (nextByte s)

/-- The slot boundaries of the run that starts at `start` with the first byte of an instruction, each with whether its
next byte, if executed, must be consumed as a second byte. -/
inductive Reached (start : State) : State → Bool → Prop
  | start : Reached start start false
  | slot {s t : State} {second : Bool} :
    Reached start s second → step s = .next t → Reached start t (secondFollows second s)

/-- At this boundary the `execute_one` call, if there is one, does what the variant's instructions do with a byte in
that position: it consumes the byte as a second byte when `second` says so, and only then. -/
def agreesAt (second : Bool) (s : State) : Prop :=
  s.skipCount = 0 →
    perform (contractOf s.cfg.variant).executeOne (beginSlot (nextByte s) s) =
      perform ((contractOf s.cfg.variant).byPosition second) (beginSlot (nextByte s) s)

/-- R222, item 5 of R219: throughout the run from `s` the variant consumes as a second byte exactly the byte that
follows each executed first byte of class P. The other items of R219 hold by the types `Action`, `Cost` and `Contract`
(log 8), so this is what is left of a variant's conformance. -/
def State.Agrees (s : State) : Prop := ∀ (t : State) (second : Bool), Reached s t second → agreesAt second t

/-- The next byte stands in second-byte position, executed (`second`) or suppressed: the byte a skip swallows with the
prefix byte before it is fetched with a count and no fresh request (R143, R146). -/
def inSecondPosition (second : Bool) (s : State) : Bool :=
  second || (decide (s.skipCount ≠ 0) && !s.skip)

/-- A well-formed T0 program, as the run from `s` meets it (R266): every byte reached in second-byte position is below
0x80, and every byte reached in first-byte position has a rule. -/
def t0WellFormedRun (s : State) : Prop :=
  ∀ (t : State) (second : Bool), Reached s t second →
    (inSecondPosition second t = true → nextByte t < 0x80#8) ∧
    (inSecondPosition second t = false → t0Unmapped (nextByte t) = false)

end Sys2Proof.Machine
end

