-- ==== Sys2Proof/Machine/HostOps.lean ====
section
/-! DEFINITION. Machine/HostOps.lean: what the host can do to a core: construct it (70_reset_and_hazards.md R312, R315),
reset it (R310, R311), run it for a budget (40_sequencer.md R110, R111). -/

namespace Sys2Proof.Machine

/-- A `run` is in progress: at a slot boundary inside one, and only there, `icount > 0` (R111, R126). DEDUCED, log 11. -/
def runInProgress (s : State) : Bool := decide (0 < s.icount)

/-- The state `reset()` leaves: all 25 fields 0, memory and configuration untouched (R310, R314), the variant's private
state reset by the variant's own means (R314). -/
def resetState (s : State) : State :=
  { State.reset with
    cfg := s.cfg
    prog := s.prog
    data := s.data
    priv := (contractOf s.cfg.variant).resetPriv s.priv }

/-- `reset()`: only between `run` calls (R311, R296 item 4). -/
def hostReset (s : State) : Host.Outcome State Fault Refusal :=
  if runInProgress s then .refused .runInProgress else .next (resetState s)

/-- Construction with a configuration and the images behind the ports, then the implicit reset (R312, R315); refused
for a configuration out of bounds (R296 item 5). -/
def construct (cfg : Config) (prog data : Memory) : Host.Outcome State Fault Refusal :=
  if cfg.wf then .next (resetState { State.reset with cfg := cfg, prog := prog, data := data })
  else .refused .badConfiguration

/-- The loop of R110, at most `fuel` slots: the guard `icount > 0` is tested only between slots (R111). -/
def runLoop (fuel : Nat) (s : State) : Host.Outcome State Fault Refusal :=
  match fuel with
  | 0 => .next s
  | k + 1 =>
    if s.icount ≤ 0 then .next s
    else
      match step s with
      | .next t => runLoop k t
      | .fault r => .fault r
      | .refused r => .refused r

/-- `run(cycle_budget)` (R110): the machine when it returns and the cycles consumed. `cycle_budget` slots of fuel are
enough, since each slot costs at least 1 (R122). Not while a `run` is in progress (R296 item 4). -/
def hostRun (budget : Int) (s : State) : Host.Outcome (State × Int) Fault Refusal :=
  if runInProgress s then .refused .runInProgress
  else
    match runLoop budget.toNat { s with icount := budget } with
    | .next t => .next (t, budget - t.icount)
    | .fault r => .fault r
    | .refused r => .refused r

end Sys2Proof.Machine
end

