-- ==== Sys2Proof/Safety.lean ====
section
/-! DEFINITION. Safety.lean: the terms in which claims about runs are made: the invariant of 10_state.md R36, the fields
a slot moves by itself (40_sequencer.md R112) written as one record, and runs of slots. -/

namespace Sys2Proof.Machine

/-- The invariant of R36, items 1, 3, 4, 5 and 7 (items 2 and 6 hold by the types of `sp`, `a`, `b` and their
histories), and that both memories are canonical and lie inside their spaces (R61, R62). -/
abbrev State.Inv (s : State) : Prop :=
  (s.pc ≤ s.cfg.pmask ∧ s.prevPc ≤ s.cfg.pmask ∧ s.stack0 ≤ s.cfg.pmask ∧ s.stack1 ≤ s.cfg.pmask) ∧
  (s.ramAddr ≤ s.cfg.dmask ∧ s.ramAddrIn ≤ s.cfg.dmask) ∧
  ((s.cDelay = false → s.cIn = s.c) ∧ (s.ramDelay = false → s.ramAddrIn = s.ramAddr)) ∧
  ((s.skip = true → s.skipCount = 1) ∧ s.skipCount ≠ 2) ∧
  (Memory.wf s.prog = true ∧ Memory.within s.cfg.pmask s.prog = true) ∧
  (Memory.wf s.data = true ∧ Memory.within s.cfg.dmask s.data = true)

/-- What every slot does besides its phase S4, as one record read off R112: the slot fetched `byte` and costs `cost`.
Histories shift, `pc` advances with silent wrap, a write staged by the slot before is committed, `cost` is charged. -/
def plainSlot (byte : Byte) (cost : Int) (s : State) : State :=
  { s with
    prevPc := s.pc
    pc := (s.pc + 1) &&& s.cfg.pmask
    prev2Op := s.prevOp
    prevOp := s.op
    op := byte
    prev2A := s.prevA
    prevA := s.a
    prev2B := s.prevB
    prevB := s.b
    prevC := s.c
    c := if s.cDelay then s.cIn else s.c
    cDelay := false
    ramAddr := if s.ramDelay then s.ramAddrIn else s.ramAddr
    ramDelay := false
    icount := s.icount - cost }

/-- `k` slots, none of which stops. -/
def slots (k : Nat) (s : State) : Host.Outcome State Fault Refusal :=
  match k with
  | 0 => .next s
  | k + 1 =>
    match step s with
    | .next t => slots k t
    | .fault r => .fault r
    | .refused r => .refused r

/-- The same outcome with the next state replaced by its image. -/
def mapNext (f : State → State) (x : Host.Outcome State Fault Refusal) : Host.Outcome State Fault Refusal :=
  match x with
  | .next t => .next (f t)
  | .fault r => .fault r
  | .refused r => .refused r

/-- The instruction is one of T0's 23 rows and not a generic row (R97). -/
def t0Row (i : Instr) : Bool :=
  match i with
  | .byte _ => false
  | .prefix2 _ _ => false
  | .nop | .nop2 | .skip | .skc | .sc | .rc | .sci | .rci | .ret | .retsk | .ld | .st | .xab | .lapp | .skaz | .adc
  | .lai _ | .lb _ | .lbi _ | .adi _ | .lar | .jmp _ | .call _ => true

/-- A byte that may stand in first-byte position of a well-formed T0 program: it has a rule among R242 to R264 (R266). -/
def t0HasRule (b : Byte) : Bool := !t0Unmapped b

end Sys2Proof.Machine
end

