-- ==== Sys2Proof/Certificates/Slice0/Obligations.lean ====
section
/-! DEFINITION. Certificates/Slice0/Obligations.lean: the statements for the provers. `plainSlot byte cost s` is what
every slot does besides the instruction's own effect (R112), so an equation with it is a result and its whole frame. -/

open Sys2Proof Sys2Proof.Machine

/-- R39, R310: every one of the 25 fields is 0 in the machine's first state and in the state `reset()` leaves; `reset()`
does not touch the memories; and a pop before any push returns 0. -/
def Obligations.ResetFieldsAreZero : Prop :=
  ∀ s r : State, r = State.reset ∨ r = resetState s →
    r.pc = 0 ∧ r.prevPc = 0 ∧ r.op = 0 ∧ r.prevOp = 0 ∧ r.prev2Op = 0 ∧ r.stack0 = 0 ∧ r.stack1 = 0 ∧ r.sp = 0 ∧
    r.a = 0 ∧ r.prevA = 0 ∧ r.prev2A = 0 ∧ r.b = 0 ∧ r.prevB = 0 ∧ r.prev2B = 0 ∧
    r.ramAddr = 0 ∧ r.ramAddrIn = 0 ∧ r.ramDelay = false ∧ r.sag = false ∧
    r.c = 0 ∧ r.prevC = 0 ∧ r.cIn = 0 ∧ r.cDelay = false ∧ r.skip = false ∧ r.skipCount = 0 ∧ r.icount = 0 ∧
    popped r = 0 ∧ (resetState s).prog = s.prog ∧ (resetState s).data = s.data

/-- R310, R314: `reset()` between runs gives the reset state, with the configuration and both memories as they were and
the private state as the variant's own reset leaves it. That `icount <= 0` is "between runs", and the private state's
form, are the model's (logs 11 and 7). -/
def Obligations.HostResetKeepsMemory : Prop :=
  ∀ s : State, s.icount ≤ 0 →
    hostReset s = .next { State.reset with
      cfg := s.cfg, prog := s.prog, data := s.data, priv := (contractOf s.cfg.variant).resetPriv s.priv }

/-- R311: a second `reset()` in a row changes nothing, for the variants whose private state is empty by definition. -/
def Obligations.SecondResetChangesNothing : Prop :=
  ∀ s t : State, s.cfg.variant = .t0 ∨ s.cfg.variant = .probe → hostReset s = .next t → hostReset t = .next t

/-- R296 item 4, R311: while a `run` is in progress (`icount > 0`, log 11) the host's `reset` and `run` are refused. -/
def Obligations.HostCallsRefusedDuringRun : Prop :=
  ∀ (s : State) (n : Int), 0 < s.icount →
    hostReset s = .refused .runInProgress ∧ hostRun n s = .refused .runInProgress

/-- R296 item 5, R312: construction asks `PW`, `DW` and `SKIP_COST` to be at least 1, and then leaves the reset state
behind the given images. That construction is where a bad configuration is refused (log 12), and that a variant's private
state is then its own reset of the empty list (log 7), are the model's choices. -/
def Obligations.ConstructionBounds : Prop :=
  ∀ (g : Config) (p d : Memory),
    (g.pw < 1 ∨ g.dw < 1 ∨ g.skipCost < 1 → construct g p d = .refused .badConfiguration) ∧
    (1 ≤ g.pw → 1 ≤ g.dw → 1 ≤ g.skipCost →
      construct g p d = .next { State.reset with
        cfg := g, prog := p, data := d, priv := (contractOf g.variant).resetPriv [] })

/-- R36: the invariant holds before the first slot: at `State.reset`, after every construction with images that are
canonical and inside their spaces, and after every `reset()` of a machine whose memories are. -/
def Obligations.ResetMeetsInvariant : Prop :=
  State.reset.Inv ∧
  (∀ (g : Config) (p d : Memory) (s : State),
    Memory.wf p = true → Memory.within g.pmask p = true → Memory.wf d = true → Memory.within g.dmask d = true →
    construct g p d = .next s → s.Inv) ∧
  (∀ s : State,
    Memory.wf s.prog = true → Memory.within s.cfg.pmask s.prog = true →
    Memory.wf s.data = true → Memory.within s.cfg.dmask s.data = true → (resetState s).Inv)

/-- R36, R219: the invariant holds after every slot that begins with it, whatever the Decode Contract. -/
def Obligations.EverySlotKeepsInvariant : Prop :=
  ∀ s t : State, s.Inv → step s = .next t → t.Inv

/-- R64, R280: in a state that meets the invariant no slot faults, whatever the Decode Contract. The faults themselves
are the model's choice (log 10). -/
def Obligations.NoSlotFaults : Prop :=
  ∀ (s : State) (r : Fault), s.Inv → step s ≠ .fault r

/-- R112, R116, R117, R240: running the decoded instruction is the core's slot, which knows no instruction and hands
every unsuppressed byte to `execute_one`. -/
def Obligations.StepIsTheCoreSlot : Prop :=
  ∀ s : State, step s = coreSlot s

/-- When no skip is pending, the slot executes the instruction to which the fetched byte belongs: the one that begins
with it, or, if the byte before was a prefix byte, the one that byte began. That the byte before tells which it is (log 5;
R221 leaves the pairing to the variant), and that the byte after only names the operand (log 6), are the model's
readings. -/
def Obligations.StepRunsDecodedInstruction : Prop :=
  ∀ (s : State) (i : Instr) (rest : List Byte), s.skipCount = 0 → s.pc ≤ s.cfg.pmask →
    (opIsPrefix s.cfg.variant s.op = false →
      decode s.cfg.variant [readByte s.prog s.pc, readByte s.prog ((s.pc + 1) &&& s.cfg.pmask)] = .ok (i, rest) →
      step s = exec i s) ∧
    (opIsPrefix s.cfg.variant s.op = true →
      decode s.cfg.variant [s.op, readByte s.prog s.pc] = .ok (i, rest) →
      step s = exec i s)

/-- Decoding the bytes of a well-formed instruction gives it back, with the bytes after it. -/
def Obligations.DecodeOfEncode : Prop :=
  ∀ (v : Variant) (i : Instr) (rest : List Byte), i.wellFormed v = true →
    decode v (encode i ++ rest) = .ok (i, rest)

/-- What decodes is well formed, and its encoding is the bytes it was read from. -/
def Obligations.EncodeOfDecode : Prop :=
  ∀ (v : Variant) (bytes rest : List Byte) (i : Instr), decode v bytes = .ok (i, rest) →
    i.wellFormed v = true ∧ bytes = encode i ++ rest

/-- R92, R94: only a missing byte makes decoding reject. -/
def Obligations.DecodeRejectsOnlyMissingBytes : Prop :=
  ∀ (v : Variant) (bytes : List Byte) (e : Reject), decode v bytes = .error e ↔
    (bytes = [] ∧ e = .noByte) ∨ (∃ b, bytes = [b] ∧ opIsPrefix v b = true ∧ e = .secondByteMissing b)

/-- Words written out from the encodings of R242, R251, R257, R259, R261, R262, R263 and R264 decode to their
instructions. -/
def Obligations.SampleWordsDecode : Prop :=
  decodeTableWord 8 0b00000000 = some .nop ∧ decodeTableWord 8 0b00001001 = some .retsk ∧
  decodeTableWord 8 0b00001111 = some .adc ∧ decodeTableWord 8 0b00101100 = some (.lb 12#4) ∧
  decodeTableWord 8 0b01000011 = some (.adi 3#4) ∧ decodeTableWord 8 0b01010000 = some .lar ∧
  decodeTableWord 16 0b0100011110000000 = some (.jmp 0x47#7) ∧
  decodeTableWord 16 0b0001000010000001 = some (.call 0x10#7)

/-- R242, R243: `NOP` and `NOP2` do nothing but cost 1 and 2. -/
def Obligations.NopResults : Prop :=
  ∀ s : State, exec .nop s = .next (plainSlot 0x00#8 1 s) ∧ exec .nop2 s = .next (plainSlot 0x01#8 2 s)

/-- R244, R245, R256: `SKIP` requests a skip; `SKC` does if the committed carry is 1; `SKAZ` does if `a` is 0. -/
def Obligations.SkipInstructionResults : Prop :=
  ∀ s : State,
    exec .skip s = .next { plainSlot 0x02#8 1 s with skip := true, skipCount := 1 } ∧
    (s.c = 1#1 → exec .skc s = .next { plainSlot 0x03#8 1 s with skip := true, skipCount := 1 }) ∧
    (s.c ≠ 1#1 → exec .skc s = .next (plainSlot 0x03#8 1 s)) ∧
    (s.a = 0#4 → exec .skaz s = .next { plainSlot 0x0E#8 1 s with skip := true, skipCount := 1 }) ∧
    (s.a ≠ 0#4 → exec .skaz s = .next (plainSlot 0x0E#8 1 s))

/-- R246 to R249: `SC` and `RC` stage a carry; `SCI` and `RCI` write it at once and cancel a commit that is due. -/
def Obligations.CarryInstructionResults : Prop :=
  ∀ s : State,
    exec .sc s = .next { plainSlot 0x04#8 1 s with cIn := 1#1, cDelay := true } ∧
    exec .rc s = .next { plainSlot 0x05#8 1 s with cIn := 0#1, cDelay := true } ∧
    exec .sci s = .next { plainSlot 0x06#8 1 s with c := 1#1, cIn := 1#1, cDelay := false } ∧
    exec .rci s = .next { plainSlot 0x07#8 1 s with c := 0#1, cIn := 0#1, cDelay := false }

/-- R250, R251 with the pops of R165: `RET` goes to the popped address, `RETSK` also requests a skip and costs 2. -/
def Obligations.ReturnResults : Prop :=
  ∀ s : State,
    (s.sp = 2 →
      exec .ret s = .next { plainSlot 0x08#8 1 s with pc := s.stack1 &&& s.cfg.pmask, sp := 1 } ∧
      exec .retsk s = .next { plainSlot 0x09#8 2 s with
        pc := s.stack1 &&& s.cfg.pmask, sp := 1, skip := true, skipCount := 1 }) ∧
    (s.sp = 0 ∨ s.sp = 1 →
      exec .ret s = .next { plainSlot 0x08#8 1 s with pc := s.stack0 &&& s.cfg.pmask, sp := 0 } ∧
      exec .retsk s = .next { plainSlot 0x09#8 2 s with
        pc := s.stack0 &&& s.cfg.pmask, sp := 0, skip := true, skipCount := 1 })

/-- R252: `LD` takes the low nibble of the byte at the committed data address, whatever is staged. -/
def Obligations.LoadResult : Prop :=
  ∀ s : State, s.ramAddr ≤ s.cfg.dmask →
    exec .ld s = .next { plainSlot 0x0A#8 1 s with a := BitVec.ofNat 4 (readByte s.data s.ramAddr).toNat }

/-- R253: `ST` stores `a`, widened with zeros, at the committed data address; every other byte of data memory, all of
program memory and every other field is as in a plain slot. -/
def Obligations.StoreResult : Prop :=
  ∀ (s : State) (addr : Nat), dataAddress s = some addr → Memory.wf s.data = true →
    addr = s.ramAddr ∧
    ∃ m : Memory, exec .st s = .next { plainSlot 0x0B#8 1 s with data := m } ∧
      readByte m addr = BitVec.ofNat 8 s.a.toNat ∧ ∀ x : Nat, x ≠ addr → readByte m x = readByte s.data x

/-- R254, R255, R258, R264: `XAB` exchanges, `LAPP` loads the history, `LAI` a constant, `LAR` the low nibble of the
committed data address. -/
def Obligations.AccumulatorMoveResults : Prop :=
  ∀ (s : State) (n : Nibble),
    exec .xab s = .next { plainSlot 0x0C#8 1 s with a := s.b, b := s.a } ∧
    exec .lapp s = .next { plainSlot 0x0D#8 1 s with a := s.prevA } ∧
    exec (.lai n) s = .next { plainSlot (BitVec.ofNat 8 (0x10 + n.toNat)) 1 s with a := n } ∧
    exec .lar s = .next { plainSlot 0x50#8 1 s with a := BitVec.ofNat 4 s.ramAddr }

/-- R257, R261: `ADI` adds a constant, `ADC` the data nibble and the incoming carry; the sum's low four bits go to `a`,
its fifth bit is staged as carry. -/
def Obligations.AdditionResults : Prop :=
  ∀ (s : State) (n : Nibble),
    exec (.adi n) s = .next { plainSlot (BitVec.ofNat 8 (0x40 + n.toNat)) 1 s with
      a := BitVec.ofNat 4 (s.a.toNat + n.toNat)
      cIn := BitVec.ofNat 1 ((s.a.toNat + n.toNat) / 16)
      cDelay := true } ∧
    (s.ramAddr ≤ s.cfg.dmask →
      exec .adc s = .next { plainSlot 0x0F#8 1 s with
        a := BitVec.ofNat 4 (s.a.toNat + (readByte s.data s.ramAddr).toNat % 16 + s.cIn.toNat)
        cIn := BitVec.ofNat 1 ((s.a.toNat + (readByte s.data s.ramAddr).toNat % 16 + s.cIn.toNat) / 16)
        cDelay := true })

/-- R259, R260: `LB` and `LBI` load `b`; `LB` stages the data address, `LBI` writes it at once and cancels a commit that
is due. -/
def Obligations.DataAddressLoadResults : Prop :=
  ∀ (s : State) (n : Nibble),
    exec (.lb n) s = .next { plainSlot (BitVec.ofNat 8 (0x20 + n.toNat)) 1 s with
      b := n, ramAddrIn := n.toNat &&& s.cfg.dmask, ramDelay := true } ∧
    exec (.lbi n) s = .next { plainSlot (BitVec.ofNat 8 (0x30 + n.toNat)) 1 s with
      b := n, ramAddr := n.toNat &&& s.cfg.dmask, ramAddrIn := n.toNat &&& s.cfg.dmask, ramDelay := false }

/-- R262: in the slot of its first byte `JMP` has no effect; in the slot of its second it loads the program counter. -/
def Obligations.JumpResults : Prop :=
  ∀ (s : State) (aa : BitVec 7),
    (s.op ≠ 0x80#8 → exec (.jmp aa) s = .next (plainSlot 0x80#8 1 s)) ∧
    (s.op = 0x80#8 →
      exec (.jmp aa) s = .next { plainSlot (BitVec.ofNat 8 aa.toNat) 1 s with pc := aa.toNat &&& s.cfg.pmask })

/-- R263 with the pushes of R165: in the slot of its second byte `CALL` pushes the address after the call and loads the
program counter. -/
def Obligations.CallResults : Prop :=
  ∀ (s : State) (aa : BitVec 7),
    (s.op ≠ 0x81#8 → exec (.call aa) s = .next (plainSlot 0x81#8 1 s)) ∧
    (s.op = 0x81#8 → s.sp = 0 →
      exec (.call aa) s = .next { plainSlot (BitVec.ofNat 8 aa.toNat) 1 s with
        pc := aa.toNat &&& s.cfg.pmask, stack0 := (s.pc + 1) &&& s.cfg.pmask, sp := 1 }) ∧
    (s.op = 0x81#8 → s.sp = 1 →
      exec (.call aa) s = .next { plainSlot (BitVec.ofNat 8 aa.toNat) 1 s with
        pc := aa.toNat &&& s.cfg.pmask, stack1 := (s.pc + 1) &&& s.cfg.pmask, sp := 2 }) ∧
    (s.op = 0x81#8 → s.sp = 2 →
      exec (.call aa) s = .next { plainSlot (BitVec.ofNat 8 aa.toNat) 1 s with
        pc := aa.toNat &&& s.cfg.pmask, stack0 := s.stack1, stack1 := (s.pc + 1) &&& s.cfg.pmask })

/-- R117 with the probe contract, whose `execute_one` changes nothing and returns 1: every byte, prefix bytes and second
bytes included, is one plain slot; and its two operations agree (R222) in every run,
which its account of both positions alike makes true (log 8). That the byte before tells the
second slot of `PREFIX2` from its first is, for every variant but T0, the model's reading (log 5). -/
def Obligations.ProbeRunsEveryByte : Prop :=
  ∀ (s : State) (o p q : Byte), s.cfg.variant = .probe →
    exec (.byte o) s = .next (plainSlot o 1 s) ∧
    (s.op ≠ p → exec (.prefix2 p q) s = .next (plainSlot p 1 s)) ∧
    (s.op = p → exec (.prefix2 p q) s = .next (plainSlot q 1 s)) ∧
    s.Agrees

/-- R117, R240: under T0, handing a byte with a one-byte instruction to `execute_one` in first-byte position is that
instruction. -/
def Obligations.GenericByteIsItsT0Row : Prop :=
  ∀ (s : State) (o : Byte) (i : Instr), s.cfg.variant = .t0 → t0IsPrefix s.op = false →
    decode .t0 [o] = .ok (i, []) → exec (.byte o) s = exec i s

/-- R262, R263, R265: under T0, the slot of a prefix byte has no effect whatever byte follows, and a second byte of 0x80
and above has no meaning. -/
def Obligations.T0PrefixPairSlots : Prop :=
  ∀ (s : State) (p q : Byte), s.cfg.variant = .t0 → t0IsPrefix p = true →
    (t0IsPrefix s.op = false → exec (.prefix2 p q) s = .next (plainSlot p 1 s)) ∧
    (s.op = p → 0x80#8 ≤ q → exec (.prefix2 p q) s = .refused (.unmappedByte q))

/-- R265: under T0 a slot is refused exactly when it executes a byte without an instruction: 0x51..0x7F or 0x82..0xFF
in first-byte position, 0x80..0xFF in second-byte position. A suppressed byte is never refused. -/
def Obligations.T0RefusesExactlyUnmappedBytes : Prop :=
  ∀ (s : State) (r : Refusal), s.Inv → s.cfg.variant = .t0 →
    (step s = .refused r ↔
      s.skipCount = 0 ∧ r = .unmappedByte (readByte s.prog s.pc) ∧
      ((s.op ≠ 0x80#8 ∧ s.op ≠ 0x81#8 ∧
          ((0x51#8 ≤ readByte s.prog s.pc ∧ readByte s.prog s.pc ≤ 0x7F#8) ∨ 0x82#8 ≤ readByte s.prog s.pc)) ∨
        ((s.op = 0x80#8 ∨ s.op = 0x81#8) ∧ 0x80#8 ≤ readByte s.prog s.pc)))

/-- R266: under T0 a slot completes whenever its byte is suppressed, has an instruction in first-byte position, or is a
second byte below 0x80. So in the run of a well-formed program every slot completes; and there T0's two operations agree
(R222): its test of `prev_op` finds exactly the bytes that follow an executed 0x80 or 0x81. Agreement is `State.Agrees`,
measured by the model's account of T0 by position (log 8). -/
def Obligations.T0WellFormedByteRuns : Prop :=
  (∀ s : State, s.Inv → s.cfg.variant = .t0 →
    s.skipCount ≠ 0 ∨ (t0IsPrefix s.op = false ∧ t0HasRule (readByte s.prog s.pc) = true) ∨
      (t0IsPrefix s.op = true ∧ readByte s.prog s.pc < 0x80#8) →
    ∃ t : State, step s = .next t) ∧
  (∀ s : State, s.Inv → s.cfg.variant = .t0 → s.skipCount = 0 → t0IsPrefix s.op = false → t0WellFormedRun s →
    s.Agrees ∧ ∀ (t : State) (second : Bool), Reached s t second → ∃ u : State, step t = .next u)

/-- R143, R145: a suppressed slot does what every slot does, costs `SKIP_COST`, clears the fresh flag and counts down,
with the lookahead only for a fresh request. It touches nothing else: no register, no stack, no memory. That a
variant's private state stays too is the model's choice (log 17). -/
def Obligations.SuppressedSlotResult : Prop :=
  ∀ s : State, s.pc ≤ s.cfg.pmask → s.skipCount ≠ 0 →
    step s = .next { plainSlot (readByte s.prog s.pc) s.cfg.skipCost s with
      skip := false
      skipCount :=
        if s.skip = true ∧ opIsPrefix s.cfg.variant (readByte s.prog s.pc) = true then 1
        else if s.skipCount = 2 then 1 else 0 }

/-- R146: the skip fields over one slot, whatever the Decode Contract: an executed slot leaves no skip or a fresh
request, a suppressed one leaves one more slot to suppress exactly when a fresh request meets a prefix byte. -/
def Obligations.SkipTransitionTable : Prop :=
  ∀ s t : State, s.Inv → step s = .next t →
    (s.skipCount = 0 → (t.skip = false ∧ t.skipCount = 0) ∨ (t.skip = true ∧ t.skipCount = 1)) ∧
    (s.skipCount = 1 → s.skip = true → opIsPrefix s.cfg.variant (readByte s.prog s.pc) = false →
      t.skip = false ∧ t.skipCount = 0) ∧
    (s.skipCount = 1 → s.skip = true → opIsPrefix s.cfg.variant (readByte s.prog s.pc) = true →
      t.skip = false ∧ t.skipCount = 1) ∧
    (s.skipCount = 1 → s.skip = false → t.skip = false ∧ t.skipCount = 0)

/-- R144: a skip request suppresses exactly one slot, or exactly two when the first suppressed byte is a prefix byte,
whatever the second byte is; then nothing is pending, and registers, stack and memories are as they were. -/
def Obligations.SkipSwallowsWholeInstruction : Prop :=
  ∀ s : State, s.Inv → s.skip = true →
    (opIsPrefix s.cfg.variant (readByte s.prog s.pc) = false →
      ∃ t, slots 1 s = .next t ∧ t.skip = false ∧ t.skipCount = 0 ∧ t.pc = (s.pc + 1) &&& s.cfg.pmask ∧
        t.a = s.a ∧ t.b = s.b ∧ t.sp = s.sp ∧ t.stack0 = s.stack0 ∧ t.stack1 = s.stack1 ∧ t.sag = s.sag ∧
        t.data = s.data ∧ t.prog = s.prog) ∧
    (opIsPrefix s.cfg.variant (readByte s.prog s.pc) = true →
      ∃ u t, slots 1 s = .next u ∧ u.skipCount = 1 ∧ slots 2 s = .next t ∧ t.skip = false ∧ t.skipCount = 0 ∧
        t.pc = (((s.pc + 1) &&& s.cfg.pmask) + 1) &&& s.cfg.pmask ∧
        t.a = s.a ∧ t.b = s.b ∧ t.sp = s.sp ∧ t.stack0 = s.stack0 ∧ t.stack1 = s.stack1 ∧ t.sag = s.sag ∧
        t.data = s.data ∧ t.prog = s.prog)

/-- R165: the complete behaviour table of `Push` and `Pop`; nothing but the stack fields changes. -/
def Obligations.StackBehaviourTable : Prop :=
  ∀ (s : State) (v : Nat),
    (s.sp = 0 → push v s = { s with stack0 := v &&& s.cfg.pmask, sp := 1 } ∧
      popped s = s.stack0 ∧ pop s = { s with sp := 0 }) ∧
    (s.sp = 1 → push v s = { s with stack1 := v &&& s.cfg.pmask, sp := 2 } ∧
      popped s = s.stack0 ∧ pop s = { s with sp := 0 }) ∧
    (s.sp = 2 → push v s = { s with stack0 := s.stack1, stack1 := v &&& s.cfg.pmask, sp := 2 } ∧
      popped s = s.stack1 ∧ pop s = { s with sp := 1 })

/-- R161 to R163, the source's scenario: a third push evicts the older entry; two pops return the newer two; every pop
after that returns the last address popped again. -/
def Obligations.ThirdPushEvictsAndStalePopRepeats : Prop :=
  ∀ (s : State) (v : Nat), s.sp = 2 →
    popped (push v s) = v &&& s.cfg.pmask ∧
    popped (pop (push v s)) = s.stack1 ∧
    popped (pop (pop (push v s))) = s.stack1 ∧
    pop (pop (pop (push v s))) = pop (pop (push v s))

/-- R181, R183, R188, R199: over an executed slot of any T0 instruction the committed carry moves only by the commit of
what the slot before staged, but for the two immediate writes, and so does the committed data address. -/
def Obligations.CommittedLatchesMoveOnlyByCommit : Prop :=
  ∀ (s t : State) (i : Instr), t0Row i = true → exec i s = .next t →
    (i ≠ .sci → i ≠ .rci → t.c = if s.cDelay then s.cIn else s.c) ∧
    ((∀ n, i ≠ .lbi n) → t.ramAddr = if s.ramDelay then s.ramAddrIn else s.ramAddr)

/-- R181, R196: a carry staged in a slot is not yet the committed one in the slot after it, and is in the slot after
that, if the slot between is suppressed or makes no immediate write. The second part is the law for any staged value,
whatever variant and instruction staged it, of the carry and of the data address: over a suppressed slot, over an
executed slot of T0 that is no immediate write, and over an executed slot of any variant that leaves the commit due. -/
def Obligations.DelayedCarryLandsOneSlotLate : Prop :=
  (∀ s s1 s2 : State, s.Inv → s.cfg.variant = .t0 → s.cDelay = false → exec .sc s = .next s1 → step s1 = .next s2 →
    s1.c = s.c ∧
    (s1.skipCount ≠ 0 ∨ (readByte s1.prog s1.pc ≠ 0x06#8 ∧ readByte s1.prog s1.pc ≠ 0x07#8) → s2.c = 1#1)) ∧
  (∀ s t : State, s.Inv → step s = .next t →
    (s.skipCount ≠ 0 ∨ (s.cfg.variant = .t0 ∧
        (t0IsPrefix s.op = true ∨ (readByte s.prog s.pc ≠ 0x06#8 ∧ readByte s.prog s.pc ≠ 0x07#8))) →
      t.c = if s.cDelay then s.cIn else s.c) ∧
    (s.skipCount ≠ 0 ∨ (s.cfg.variant = .t0 ∧
        (t0IsPrefix s.op = true ∨ readByte s.prog s.pc < 0x30#8 ∨ 0x3F#8 < readByte s.prog s.pc)) →
      t.ramAddr = if s.ramDelay then s.ramAddrIn else s.ramAddr) ∧
    (∀ (u : Slot) (k : Cost), s.skipCount = 0 →
      perform (contractOf s.cfg.variant).executeOne (beginSlot (readByte s.prog s.pc) s) = .next (u, k) →
      (u.cDue = true → s.cDelay = true ∧ t.c = s.cIn) ∧ (u.rDue = true → s.ramDelay = true ∧ t.ramAddr = s.ramAddrIn)))

/-- R193: delayed writes in consecutive slots each land one slot late and neither is lost, for the carry and for the
data address. -/
def Obligations.BackToBackDelayedWrites : Prop :=
  ∀ (s s1 s2 s3 : State) (n n' : Nibble), s.cDelay = false → s.ramDelay = false →
    (exec .sc s = .next s1 → exec .rc s1 = .next s2 → exec .nop s2 = .next s3 →
      s1.c = s.c ∧ s2.c = 1#1 ∧ s3.c = 0#1) ∧
    (exec (.lb n) s = .next s1 → exec (.lb n') s1 = .next s2 → exec .nop s2 = .next s3 →
      s1.ramAddr = s.ramAddr ∧ s2.ramAddr = n.toNat &&& s.cfg.dmask ∧ s3.ramAddr = n'.toNat &&& s.cfg.dmask)

/-- R194: an immediate write in the slot after a delayed one discards it; the later write wins and nothing stays
staged. -/
def Obligations.ImmediateWriteDiscardsStaged : Prop :=
  ∀ (s s1 s2 : State) (n n' : Nibble),
    (exec .sc s = .next s1 → exec .rci s1 = .next s2 → s2.c = 0#1 ∧ s2.cIn = 0#1 ∧ s2.cDelay = false) ∧
    (exec (.lb n) s = .next s1 → exec (.lbi n') s1 = .next s2 →
      s2.ramAddr = n'.toNat &&& s.cfg.dmask ∧ s2.ramAddrIn = n'.toNat &&& s.cfg.dmask ∧ s2.ramDelay = false)

/-- R113 to R115: every slot that completes, executed or suppressed and whatever the Decode Contract, shifts all the
histories and leaves the byte it fetched in `op`. -/
def Obligations.HistoriesShiftEverySlot : Prop :=
  ∀ s t : State, step s = .next t →
    t.prevPc = s.pc ∧ t.prevA = s.a ∧ t.prev2A = s.prevA ∧ t.prevB = s.b ∧ t.prev2B = s.prevB ∧ t.prevC = s.c ∧
    t.op = readByte s.prog s.pc ∧ t.prevOp = s.op ∧ t.prev2Op = s.prevOp

/-- R8: the configuration is fixed for the lifetime of the core: no slot changes it, whatever the Decode Contract. -/
def Obligations.ConfigurationIsFixed : Prop :=
  ∀ (k : Nat) (s t : State), slots k s = .next t → t.cfg = s.cfg

/-- R114, R125: a T0 instruction other than a return, jump or call leaves `pc` at the next address, with silent wrap. -/
def Obligations.OnlyFlowInstructionsLoadThePc : Prop :=
  ∀ (s t : State) (i : Instr), t0Row i = true → i ≠ .ret → i ≠ .retsk →
    (∀ aa, i ≠ .jmp aa) → (∀ aa, i ≠ .call aa) → exec i s = .next t →
    t.pc = (s.pc + 1) &&& s.cfg.pmask

/-- R267: what each T0 instruction leaves alone: program memory, `sag` and private state, all of them; data memory, all
but `ST`; the stack, all but `CALL` and the returns; the skip fields, all but the five that can request a skip. -/
def Obligations.T0Frame : Prop :=
  ∀ (s t : State) (i : Instr), t0Row i = true → exec i s = .next t →
    (∀ x, readByte t.prog x = readByte s.prog x) ∧ t.sag = s.sag ∧ t.priv = s.priv ∧ t.cfg = s.cfg ∧
    (i ≠ .st → ∀ x, readByte t.data x = readByte s.data x) ∧
    ((∀ aa, i ≠ .call aa) → i ≠ .ret → i ≠ .retsk →
      t.sp = s.sp ∧ t.stack0 = s.stack0 ∧ t.stack1 = s.stack1) ∧
    (i ≠ .skip → i ≠ .skc → i ≠ .skaz → i ≠ .retsk → t.skip = s.skip ∧ t.skipCount = s.skipCount) ∧
    (i ≠ .xab → (∀ n, i ≠ .lb n) → (∀ n, i ≠ .lbi n) → t.b = s.b) ∧
    (i ≠ .xab → i ≠ .ld → i ≠ .lapp → i ≠ .adc → i ≠ .lar → (∀ n, i ≠ .lai n) → (∀ n, i ≠ .adi n) → t.a = s.a)

/-- R332: a slot of a T0 instruction costs 1, of `NOP2` and `RETSK` 2. -/
def Obligations.T0CostTable : Prop :=
  ∀ (s t : State) (i : Instr), t0Row i = true → exec i s = .next t →
    t.icount = s.icount - (if i = .nop2 ∨ i = .retsk then 2 else 1)

/-- R72: under T0 a slot reads one byte of program memory, the one at `pc`: two machines that differ only in the rest of
program memory make the same step. -/
def Obligations.OneProgramReadPerSlot : Prop :=
  ∀ (s : State) (m : Memory), s.cfg.variant = .t0 → readByte m s.pc = readByte s.prog s.pc →
    step { s with prog := m } = mapNext (fun t => { t with prog := m }) (step s)

/-- R30: `sag` is stored only: under T0 it has no influence on a slot and no slot changes it. -/
def Obligations.SagHasNoInfluence : Prop :=
  ∀ (s : State) (x : Bool), s.cfg.variant = .t0 →
    step { s with sag := x } = mapNext (fun t => { t with sag := x }) (step s)

/-- R123, R331: whatever the Decode Contract, a slot neither reads the budget nor lets it influence anything but
`icount`, from which it subtracts its cost. -/
def Obligations.BudgetInfluencesNothing : Prop :=
  ∀ (s : State) (m : Int),
    step { s with icount := m } = mapNext (fun t => { t with icount := t.icount + (m - s.icount) }) (step s)

/-- R111, R285: `run` with a budget of zero or less performs no slot and returns 0. -/
def Obligations.RunWithoutBudgetDoesNothing : Prop :=
  ∀ (s : State) (n : Int), s.icount ≤ 0 → n ≤ 0 → hostRun n s = .next ({ s with icount := n }, 0)

/-- R120: a `run` with positive budget returns at least its budget and at most `max(2, SKIP_COST) - 1` more, and returns
only with the budget spent. -/
def Obligations.RunOverrunBounds : Prop :=
  ∀ (s t : State) (n k : Int), 1 ≤ s.cfg.skipCost → 0 < n → hostRun n s = .next (t, k) →
    n ≤ k ∧ k ≤ n + max 2 (s.cfg.skipCost : Int) - 1 ∧ t.icount ≤ 0 ∧ k = n - t.icount

/-- R122: `run(n)` with `n > 0` performs at least `ceil(n / max(2, SKIP_COST))` and at most `n` slots. -/
def Obligations.RunSlotCount : Prop :=
  ∀ (s t : State) (n k : Int), 1 ≤ s.cfg.skipCost → 0 < n → hostRun n s = .next (t, k) →
    ∃ j : Nat, slots j { s with icount := n } = .next t ∧ (j : Int) ≤ n ∧ n ≤ j * max 2 (s.cfg.skipCost : Int)

/-- R123: two `run` calls in a row leave, but for `icount`, a state that some number of slots from the start leaves: how
the slots are divided among calls decides only how many there are. -/
def Obligations.RunsComposeAsSlots : Prop :=
  ∀ (s t u : State) (n m k k' : Int), hostRun n s = .next (t, k) → hostRun m t = .next (u, k') →
    ∃ (j j' : Nat) (t' u' : State), slots j s = .next t' ∧ slots (j + j') s = .next u' ∧
      { t' with icount := t.icount } = t ∧ { u' with icount := u.icount } = u

/-- R262, R69: `JMP aa` in program memory, at any address, takes two slots of cost 1 and goes to `aa`. -/
def Obligations.JumpTakesTwoSlots : Prop :=
  ∀ (s : State) (aa : BitVec 7), s.Inv → s.cfg.variant = .t0 → s.skipCount = 0 → t0IsPrefix s.op = false →
    readByte s.prog s.pc = 0x80#8 → readByte s.prog ((s.pc + 1) &&& s.cfg.pmask) = BitVec.ofNat 8 aa.toNat →
    ∃ t, slots 2 s = .next t ∧ t.pc = aa.toNat &&& s.cfg.pmask ∧ t.icount = s.icount - 2 ∧
      t.prevOp = 0x80#8 ∧ t.a = s.a ∧ t.b = s.b ∧ t.sp = s.sp ∧ t.stack0 = s.stack0 ∧ t.stack1 = s.stack1 ∧
      t.data = s.data ∧ t.prog = s.prog

/-- R250, R263: a `CALL` and the `RET` at its target come back to the address after the call, and leave the level count
as it was, when fewer than two levels were held. -/
def Obligations.CallThenReturnComesBack : Prop :=
  ∀ (s : State) (aa : BitVec 7), s.Inv → s.cfg.variant = .t0 → s.skipCount = 0 → t0IsPrefix s.op = false →
    s.sp ≠ 2 → readByte s.prog s.pc = 0x81#8 →
    readByte s.prog ((s.pc + 1) &&& s.cfg.pmask) = BitVec.ofNat 8 aa.toNat →
    readByte s.prog (aa.toNat &&& s.cfg.pmask) = 0x08#8 →
    ∃ t, slots 3 s = .next t ∧ t.pc = (((s.pc + 1) &&& s.cfg.pmask) + 1) &&& s.cfg.pmask ∧ t.sp = s.sp ∧
      t.a = s.a ∧ t.b = s.b ∧ t.data = s.data ∧ t.prog = s.prog

/-- R228, R229: the data primitives access the location `ram_addr` and move all 8 bits; outside data space they fault,
which is the model's choice (log 10). -/
def Obligations.DataPortPrimitives : Prop :=
  ∀ (t : Slot) (v : Byte) (f : Byte → Action) (k : Action),
    (t.st.ramAddr ≤ t.st.cfg.dmask →
      perform (.dataRead f) t = perform (f (readByte t.st.data t.st.ramAddr)) t ∧
      perform (.dataWrite v k) t =
        perform k { t with st := { t.st with data := writeByte t.st.data t.st.ramAddr v } }) ∧
    (t.st.cfg.dmask < t.st.ramAddr →
      perform (.dataRead f) t = .fault (.dataAddress t.st.ramAddr) ∧
      perform (.dataWrite v k) t = .fault (.dataAddress t.st.ramAddr))

/-- R79, R231: a program write is seen by the next fetch of that location, and no other location changes; `ProgRead` and
`ProgWrite`, called by a variant, access the location of the masked address and nothing else. -/
def Obligations.ProgramWriteSeenByNextFetch : Prop :=
  (∀ (s : State) (addr : Nat) (v : Byte), Memory.wf s.prog = true → s.pc ≤ s.cfg.pmask →
    (addr &&& s.cfg.pmask = s.pc → fetchByte (progWrite addr v s) = some v) ∧
    (addr &&& s.cfg.pmask ≠ s.pc → fetchByte (progWrite addr v s) = fetchByte s)) ∧
  (∀ (t : Slot) (addr : Nat) (v : Byte) (f : Byte → Action) (k : Action),
    perform (.progRead addr f) t = perform (f (readByte t.st.prog (addr &&& t.st.cfg.pmask))) t ∧
    perform (.progWrite addr v k) t =
      perform k { t with st := { t.st with prog := writeByte t.st.prog (addr &&& t.st.cfg.pmask) v } } ∧
    (Memory.wf t.st.prog = true → ∀ x : Nat,
      readByte (writeByte t.st.prog (addr &&& t.st.cfg.pmask) v) x =
        if x = addr &&& t.st.cfg.pmask then v else readByte t.st.prog x))

/-- R230: `SegLookup` consults the table when the port is attached and has no meaning when it is not. R220: a variant
reads and writes its private state, whose form as a list is the model's choice (log 7), and touches nothing else by it. -/
def Obligations.SegmentLookupNeedsThePort : Prop :=
  ∀ (t : Slot) (v : Nat) (f : Nat → Action) (x : List Nat) (g : List Nat → Action) (k : Action),
    (t.st.cfg.hasSeg = true → perform (.segLookup v f) t = perform (f (Config.seg v)) t) ∧
    (t.st.cfg.hasSeg = false → perform (.segLookup v f) t = .refused .noSegmentPort) ∧
    perform (.readPriv g) t = perform (g t.st.priv) t ∧
    perform (.writePriv x k) t = perform k { t with st := { t.st with priv := x } }

/-- R184 to R186: the carry primitives a variant may call, for operands of any width. A delayed write leaves a commit that
is due alone; an immediate one cancels it. -/
def Obligations.CarryPrimitives : Prop :=
  ∀ (t : Slot) (v : Nat) (k : Action) (f : Bit → Action),
    perform (.carryRead f) t = perform (f t.st.c) t ∧
    perform (.carryInRead f) t = perform (f t.st.cIn) t ∧
    perform (.carryWriteDelayed v k) t =
      perform k { t with st := { t.st with cIn := BitVec.ofNat 1 (v &&& 1), cDelay := true } } ∧
    perform (.carryWriteImmediate v k) t =
      perform k { t with
        st := { t.st with c := BitVec.ofNat 1 (v &&& 1), cIn := BitVec.ofNat 1 (v &&& 1), cDelay := false }
        cDue := false }

/-- R189 to R191: the address-latch primitives a variant may call, for operands of any width. -/
def Obligations.RamAddrPrimitives : Prop :=
  ∀ (t : Slot) (v : Nat) (k : Action) (f : Nat → Action),
    perform (.ramAddrRead f) t = perform (f t.st.ramAddr) t ∧
    perform (.ramAddrWriteDelayed v k) t =
      perform k { t with st := { t.st with ramAddrIn := v &&& t.st.cfg.dmask, ramDelay := true } } ∧
    perform (.ramAddrWriteImmediate v k) t =
      perform k { t with
        st := { t.st with
          ramAddr := v &&& t.st.cfg.dmask, ramAddrIn := v &&& t.st.cfg.dmask, ramDelay := false }
        rDue := false }

/-- R141, R216: `SkipRequest` and `PcLoad`, called by a variant, write their fields and nothing else; asking twice for a
skip is asking once, and of several loads of the program counter the last wins. Beside them, the rest of what R214 lets
a variant do with the registers: `Push` and `Pop` (R161, R162), each direct read, each direct write (R217), and the end
of the call with its cost (R213). -/
def Obligations.FlowPrimitives : Prop :=
  ∀ (t : Slot) (v w : Nat) (k : Action),
    perform (.skipRequest k) t = perform k { t with st := { t.st with skip := true, skipCount := 1 } } ∧
    perform (.skipRequest (.skipRequest k)) t = perform (.skipRequest k) t ∧
    perform (.pcLoad v k) t = perform k { t with st := { t.st with pc := v &&& t.st.cfg.pmask } } ∧
    perform (.pcLoad v (.pcLoad w k)) t = perform (.pcLoad w k) t ∧
    perform (.push v k) t = perform k { t with st := push v t.st } ∧
    (∀ f : Nat → Action,
      perform (.pop f) t = perform (f (popped t.st)) { t with st := pop t.st } ∧
      perform (.readPc f) t = perform (f t.st.pc) t ∧ perform (.readPrevPc f) t = perform (f t.st.prevPc) t) ∧
    (∀ f : Byte → Action,
      perform (.readOp f) t = perform (f t.st.op) t ∧ perform (.readPrevOp f) t = perform (f t.st.prevOp) t ∧
      perform (.readPrev2Op f) t = perform (f t.st.prev2Op) t) ∧
    (∀ f : Nibble → Action,
      perform (.readA f) t = perform (f t.st.a) t ∧ perform (.readPrevA f) t = perform (f t.st.prevA) t ∧
      perform (.readPrev2A f) t = perform (f t.st.prev2A) t ∧ perform (.readB f) t = perform (f t.st.b) t ∧
      perform (.readPrevB f) t = perform (f t.st.prevB) t ∧ perform (.readPrev2B f) t = perform (f t.st.prev2B) t) ∧
    (∀ f : Bit → Action, perform (.readPrevC f) t = perform (f t.st.prevC) t) ∧
    (∀ f : Bool → Action, perform (.readSag f) t = perform (f t.st.sag) t) ∧
    (∀ n : Nibble, perform (.writeA n k) t = perform k { t with st := { t.st with a := n } } ∧
      perform (.writeB n k) t = perform k { t with st := { t.st with b := n } }) ∧
    (∀ x : Bool, perform (.writeSag x k) t = perform k { t with st := { t.st with sag := x } }) ∧
    (∀ c : Cost, perform (.done c) t = .next (t, c))

/-- R222: where a variant's two operations agree, in any run and whatever the variant: each executed byte does what the
variant's instructions do with it in its position, the byte after an executed first byte of class P stands as a second
byte, and no other does: not the byte after a byte of class N, after a second byte, or after what a skip swallowed.
R222 says it of each executed byte of class P; that a second byte of class P begins nothing (DEDUCED), and that consuming
is measured by the contract's own account `byPosition` (DESIGN CHOICE), are the model's (log 8). -/
def Obligations.AgreeingVariantPairsBytes : Prop :=
  ∀ (s t u : State) (second : Bool), s.Inv → s.Agrees → Reached s t second → step t = .next u →
    (t.skipCount = 0 →
      executedSlot (readByte t.prog t.pc) ((contractOf t.cfg.variant).byPosition second) t = .next u) ∧
    (t.skipCount = 0 → u.skipCount = 0 →
      step u = executedSlot (readByte u.prog u.pc)
        ((contractOf t.cfg.variant).byPosition
          (!second && opIsPrefix t.cfg.variant (readByte t.prog t.pc))) u) ∧
    (t.skipCount ≠ 0 → u.skipCount = 0 →
      step u = executedSlot (readByte u.prog u.pc) ((contractOf t.cfg.variant).byPosition false) u)
end

