-- ==== Sys2Proof/Laws/Memory.lean ====
section
/-! SUPPORT. Laws/Memory.lean: a read after a write, and that every write keeps the canonical form and the space. -/

namespace Sys2Proof.Machine

theorem canonicalFrom_mono {low low' : Nat} {m : Memory} (h : low' ≤ low) (w : canonicalFrom low m = true) :
    canonicalFrom low' m = true := by
  cases m with
  | nil => rfl
  | cons cell rest =>
    simp only [canonicalFrom, Bool.and_eq_true, decide_eq_true_eq] at w ⊢
    exact ⟨⟨by omega, w.1.2⟩, w.2⟩

theorem canonicalFrom_listed_append {low addr : Nat} {v : Byte} {m : Memory} (h : low ≤ addr)
    (w : canonicalFrom (addr + 1) m = true) : canonicalFrom low (listed addr v ++ m) = true := by
  unfold listed
  split_ifs with hv
  · exact canonicalFrom_mono (by omega) w
  · simp [canonicalFrom, h, hv, w]

theorem canonicalFrom_writeByte {m : Memory} {low addr : Nat} {v : Byte} (h : low ≤ addr)
    (w : canonicalFrom low m = true) : canonicalFrom low (writeByte m addr v) = true := by
  induction m generalizing low with
  | nil => simpa [writeByte] using canonicalFrom_listed_append (m := []) (v := v) h rfl
  | cons cell rest ih =>
    obtain ⟨k, x⟩ := cell
    simp only [canonicalFrom, Bool.and_eq_true, decide_eq_true_eq] at w
    unfold writeByte
    split_ifs with h1 h2
    · exact canonicalFrom_listed_append h (by simp [canonicalFrom, w.1.2, w.2]; omega)
    · subst h2; exact canonicalFrom_listed_append h w.2
    · simp only [canonicalFrom, Bool.and_eq_true, decide_eq_true_eq]
      exact ⟨w.1, ih (by omega) w.2⟩

/-- A write keeps the canonical form. -/
theorem wf_writeByte {m : Memory} (addr : Nat) (v : Byte) (w : Memory.wf m = true) :
    Memory.wf (writeByte m addr v) = true :=
  canonicalFrom_writeByte (Nat.zero_le addr) w

/-- A write adds no cell but its own. -/
theorem mem_writeByte {m : Memory} {addr : Nat} {v : Byte} {cell : Host.Cell} (h : cell ∈ writeByte m addr v) :
    cell ∈ m ∨ cell = (addr, v) := by
  induction m with
  | nil =>
    unfold writeByte listed at h
    split_ifs at h <;> simp_all
  | cons head rest ih =>
    obtain ⟨k, x⟩ := head
    unfold writeByte listed at h
    split_ifs at h <;> simp only [List.nil_append, List.cons_append, List.mem_cons] at h ⊢ <;> tauto

/-- A write inside the space keeps the memory inside it. -/
theorem within_writeByte {m : Memory} {top addr : Nat} (v : Byte) (h : addr ≤ top)
    (w : Memory.within top m = true) : Memory.within top (writeByte m addr v) = true := by
  simp only [Memory.within, List.all_eq_true, decide_eq_true_eq] at w ⊢
  intro cell hc
  rcases mem_writeByte hc with hm | rfl
  · exact w cell hm
  · exact h

/-- A write leaves every other address alone. -/
theorem readByte_writeByte_other {m : Memory} {addr x : Nat} (v : Byte) (h : x ≠ addr) :
    readByte (writeByte m addr v) x = readByte m x := by
  have h' : ¬ addr = x := fun e => h e.symm
  induction m with
  | nil => unfold writeByte listed; split_ifs <;> simp [readByte, h']
  | cons cell rest ih =>
    obtain ⟨k, y⟩ := cell
    unfold writeByte listed
    split_ifs <;> simp_all [readByte]

theorem readByte_below {m : Memory} {low addr : Nat} (h : addr < low) (w : canonicalFrom low m = true) :
    readByte m addr = unlisted := by
  induction m generalizing low with
  | nil => rfl
  | cons cell rest ih =>
    simp only [canonicalFrom, Bool.and_eq_true, decide_eq_true_eq] at w
    have : cell.1 ≠ addr := by omega
    simp only [readByte, this, if_false]
    exact ih (low := cell.1 + 1) (by omega) w.2

theorem readByte_writeByte_from {m : Memory} {low : Nat} (addr : Nat) (v : Byte) (w : canonicalFrom low m = true) :
    readByte (writeByte m addr v) addr = v := by
  induction m generalizing low with
  | nil => unfold writeByte listed; split_ifs with hv <;> simp [readByte, hv]
  | cons cell rest ih =>
    obtain ⟨k, y⟩ := cell
    have w' := w
    simp only [canonicalFrom, Bool.and_eq_true, decide_eq_true_eq] at w'
    unfold writeByte listed
    split_ifs with h1 hv h2 hv
    · have : canonicalFrom k ((k, y) :: rest) = true := by simp [canonicalFrom, w'.1.2, w'.2]
      simpa [hv] using readByte_below h1 this
    · simp [readByte]
    · subst h2; simpa [hv] using readByte_below (Nat.lt_succ_self addr) w'.2
    · simp [readByte]
    · have : ¬ k = addr := fun e => h2 e.symm
      simpa [readByte, this] using ih w'.2

/-- A read after a write to the same address gives the value written. -/
theorem readByte_writeByte_same {m : Memory} (addr : Nat) (v : Byte) (w : Memory.wf m = true) :
    readByte (writeByte m addr v) addr = v :=
  readByte_writeByte_from addr v w

end Sys2Proof.Machine
end

