-- ==== Sys2Proof/Laws/State.lean ====
section
/-! SUPPORT. Laws/State.lean: for each named update of the state or the slot, what each field becomes; the fields it
leaves alone are in its `_frame` lemma, one conjunct a field. -/

namespace Sys2Proof.Machine

@[simp] theorem carryWriteDelayed_cIn (v : Nat) (s : State) : (carryWriteDelayed v s).cIn = carryBit v := rfl
@[simp] theorem carryWriteDelayed_cDelay (v : Nat) (s : State) : (carryWriteDelayed v s).cDelay = true := rfl
@[simp] theorem carryWriteDelayed_frame (v : Nat) (s : State) :
    (carryWriteDelayed v s).cfg = s.cfg ∧ (carryWriteDelayed v s).prog = s.prog ∧
    (carryWriteDelayed v s).data = s.data ∧ (carryWriteDelayed v s).priv = s.priv ∧
    (carryWriteDelayed v s).pc = s.pc ∧ (carryWriteDelayed v s).prevPc = s.prevPc ∧
    (carryWriteDelayed v s).op = s.op ∧ (carryWriteDelayed v s).prevOp = s.prevOp ∧
    (carryWriteDelayed v s).prev2Op = s.prev2Op ∧ (carryWriteDelayed v s).stack0 = s.stack0 ∧
    (carryWriteDelayed v s).stack1 = s.stack1 ∧ (carryWriteDelayed v s).sp = s.sp ∧ (carryWriteDelayed v s).a = s.a ∧
    (carryWriteDelayed v s).prevA = s.prevA ∧ (carryWriteDelayed v s).prev2A = s.prev2A ∧
    (carryWriteDelayed v s).b = s.b ∧ (carryWriteDelayed v s).prevB = s.prevB ∧
    (carryWriteDelayed v s).prev2B = s.prev2B ∧ (carryWriteDelayed v s).ramAddr = s.ramAddr ∧
    (carryWriteDelayed v s).ramAddrIn = s.ramAddrIn ∧ (carryWriteDelayed v s).ramDelay = s.ramDelay ∧
    (carryWriteDelayed v s).sag = s.sag ∧ (carryWriteDelayed v s).c = s.c ∧ (carryWriteDelayed v s).prevC = s.prevC ∧
    (carryWriteDelayed v s).skip = s.skip ∧ (carryWriteDelayed v s).skipCount = s.skipCount ∧
    (carryWriteDelayed v s).icount = s.icount := by
  repeat' constructor

@[simp] theorem skipRequest_skip (s : State) : (skipRequest s).skip = true := rfl
@[simp] theorem skipRequest_skipCount (s : State) : (skipRequest s).skipCount = 1 := rfl
@[simp] theorem skipRequest_frame (s : State) :
    (skipRequest s).cfg = s.cfg ∧ (skipRequest s).prog = s.prog ∧ (skipRequest s).data = s.data ∧
    (skipRequest s).priv = s.priv ∧ (skipRequest s).pc = s.pc ∧ (skipRequest s).prevPc = s.prevPc ∧
    (skipRequest s).op = s.op ∧ (skipRequest s).prevOp = s.prevOp ∧ (skipRequest s).prev2Op = s.prev2Op ∧
    (skipRequest s).stack0 = s.stack0 ∧ (skipRequest s).stack1 = s.stack1 ∧ (skipRequest s).sp = s.sp ∧
    (skipRequest s).a = s.a ∧ (skipRequest s).prevA = s.prevA ∧ (skipRequest s).prev2A = s.prev2A ∧
    (skipRequest s).b = s.b ∧ (skipRequest s).prevB = s.prevB ∧ (skipRequest s).prev2B = s.prev2B ∧
    (skipRequest s).ramAddr = s.ramAddr ∧ (skipRequest s).ramAddrIn = s.ramAddrIn ∧
    (skipRequest s).ramDelay = s.ramDelay ∧ (skipRequest s).sag = s.sag ∧ (skipRequest s).c = s.c ∧
    (skipRequest s).prevC = s.prevC ∧ (skipRequest s).cIn = s.cIn ∧ (skipRequest s).cDelay = s.cDelay ∧
    (skipRequest s).icount = s.icount := by
  repeat' constructor

@[simp] theorem suppress_skip (s : State) : (suppress s).skip = false := rfl
@[simp] theorem suppress_skipCount (s : State) : (suppress s).skipCount = countDown (lookahead s) := rfl
@[simp] theorem suppress_frame (s : State) :
    (suppress s).cfg = s.cfg ∧ (suppress s).prog = s.prog ∧ (suppress s).data = s.data ∧ (suppress s).priv = s.priv ∧
    (suppress s).pc = s.pc ∧ (suppress s).prevPc = s.prevPc ∧ (suppress s).op = s.op ∧
    (suppress s).prevOp = s.prevOp ∧ (suppress s).prev2Op = s.prev2Op ∧ (suppress s).stack0 = s.stack0 ∧
    (suppress s).stack1 = s.stack1 ∧ (suppress s).sp = s.sp ∧ (suppress s).a = s.a ∧ (suppress s).prevA = s.prevA ∧
    (suppress s).prev2A = s.prev2A ∧ (suppress s).b = s.b ∧ (suppress s).prevB = s.prevB ∧
    (suppress s).prev2B = s.prev2B ∧ (suppress s).ramAddr = s.ramAddr ∧ (suppress s).ramAddrIn = s.ramAddrIn ∧
    (suppress s).ramDelay = s.ramDelay ∧ (suppress s).sag = s.sag ∧ (suppress s).c = s.c ∧
    (suppress s).prevC = s.prevC ∧ (suppress s).cIn = s.cIn ∧ (suppress s).cDelay = s.cDelay ∧
    (suppress s).icount = s.icount := by
  repeat' constructor

@[simp] theorem pcLoad_pc (v : Nat) (s : State) : (pcLoad v s).pc = maskP s.cfg v := rfl
@[simp] theorem pcLoad_frame (v : Nat) (s : State) :
    (pcLoad v s).cfg = s.cfg ∧ (pcLoad v s).prog = s.prog ∧ (pcLoad v s).data = s.data ∧ (pcLoad v s).priv = s.priv ∧
    (pcLoad v s).prevPc = s.prevPc ∧ (pcLoad v s).op = s.op ∧ (pcLoad v s).prevOp = s.prevOp ∧
    (pcLoad v s).prev2Op = s.prev2Op ∧ (pcLoad v s).stack0 = s.stack0 ∧ (pcLoad v s).stack1 = s.stack1 ∧
    (pcLoad v s).sp = s.sp ∧ (pcLoad v s).a = s.a ∧ (pcLoad v s).prevA = s.prevA ∧ (pcLoad v s).prev2A = s.prev2A ∧
    (pcLoad v s).b = s.b ∧ (pcLoad v s).prevB = s.prevB ∧ (pcLoad v s).prev2B = s.prev2B ∧
    (pcLoad v s).ramAddr = s.ramAddr ∧ (pcLoad v s).ramAddrIn = s.ramAddrIn ∧ (pcLoad v s).ramDelay = s.ramDelay ∧
    (pcLoad v s).sag = s.sag ∧ (pcLoad v s).c = s.c ∧ (pcLoad v s).prevC = s.prevC ∧ (pcLoad v s).cIn = s.cIn ∧
    (pcLoad v s).cDelay = s.cDelay ∧ (pcLoad v s).skip = s.skip ∧ (pcLoad v s).skipCount = s.skipCount ∧
    (pcLoad v s).icount = s.icount := by
  repeat' constructor

@[simp] theorem push_stack0 (v : Nat) (s : State) : (push v s).stack0 = if s.sp = 2 then s.stack1 else if s.sp = 0 then maskP s.cfg v else s.stack0 := by
  unfold push
  split_ifs <;> rfl
@[simp] theorem push_stack1 (v : Nat) (s : State) : (push v s).stack1 = if s.sp = 2 then maskP s.cfg v else if s.sp = 0 then s.stack1 else maskP s.cfg v := by
  unfold push
  split_ifs <;> rfl
@[simp] theorem push_sp (v : Nat) (s : State) : (push v s).sp = countUp s.sp := by
  unfold push
  split_ifs with h
  · simp [h, countUp]
  · rfl
  · rfl
@[simp] theorem push_frame (v : Nat) (s : State) :
    (push v s).cfg = s.cfg ∧ (push v s).prog = s.prog ∧ (push v s).data = s.data ∧ (push v s).priv = s.priv ∧
    (push v s).pc = s.pc ∧ (push v s).prevPc = s.prevPc ∧ (push v s).op = s.op ∧ (push v s).prevOp = s.prevOp ∧
    (push v s).prev2Op = s.prev2Op ∧ (push v s).a = s.a ∧ (push v s).prevA = s.prevA ∧ (push v s).prev2A = s.prev2A ∧
    (push v s).b = s.b ∧ (push v s).prevB = s.prevB ∧ (push v s).prev2B = s.prev2B ∧ (push v s).ramAddr = s.ramAddr ∧
    (push v s).ramAddrIn = s.ramAddrIn ∧ (push v s).ramDelay = s.ramDelay ∧ (push v s).sag = s.sag ∧
    (push v s).c = s.c ∧ (push v s).prevC = s.prevC ∧ (push v s).cIn = s.cIn ∧ (push v s).cDelay = s.cDelay ∧
    (push v s).skip = s.skip ∧ (push v s).skipCount = s.skipCount ∧ (push v s).icount = s.icount := by
  unfold push
  split_ifs <;> simp

@[simp] theorem pop_sp (s : State) : (pop s).sp = countDown s.sp := rfl
@[simp] theorem pop_frame (s : State) :
    (pop s).cfg = s.cfg ∧ (pop s).prog = s.prog ∧ (pop s).data = s.data ∧ (pop s).priv = s.priv ∧ (pop s).pc = s.pc ∧
    (pop s).prevPc = s.prevPc ∧ (pop s).op = s.op ∧ (pop s).prevOp = s.prevOp ∧ (pop s).prev2Op = s.prev2Op ∧
    (pop s).stack0 = s.stack0 ∧ (pop s).stack1 = s.stack1 ∧ (pop s).a = s.a ∧ (pop s).prevA = s.prevA ∧
    (pop s).prev2A = s.prev2A ∧ (pop s).b = s.b ∧ (pop s).prevB = s.prevB ∧ (pop s).prev2B = s.prev2B ∧
    (pop s).ramAddr = s.ramAddr ∧ (pop s).ramAddrIn = s.ramAddrIn ∧ (pop s).ramDelay = s.ramDelay ∧
    (pop s).sag = s.sag ∧ (pop s).c = s.c ∧ (pop s).prevC = s.prevC ∧ (pop s).cIn = s.cIn ∧
    (pop s).cDelay = s.cDelay ∧ (pop s).skip = s.skip ∧ (pop s).skipCount = s.skipCount ∧ (pop s).icount = s.icount := by
  repeat' constructor

@[simp] theorem ramAddrWriteDelayed_ramAddrIn (v : Nat) (s : State) : (ramAddrWriteDelayed v s).ramAddrIn = maskD s.cfg v := rfl
@[simp] theorem ramAddrWriteDelayed_ramDelay (v : Nat) (s : State) : (ramAddrWriteDelayed v s).ramDelay = true := rfl
@[simp] theorem ramAddrWriteDelayed_frame (v : Nat) (s : State) :
    (ramAddrWriteDelayed v s).cfg = s.cfg ∧ (ramAddrWriteDelayed v s).prog = s.prog ∧
    (ramAddrWriteDelayed v s).data = s.data ∧ (ramAddrWriteDelayed v s).priv = s.priv ∧
    (ramAddrWriteDelayed v s).pc = s.pc ∧ (ramAddrWriteDelayed v s).prevPc = s.prevPc ∧
    (ramAddrWriteDelayed v s).op = s.op ∧ (ramAddrWriteDelayed v s).prevOp = s.prevOp ∧
    (ramAddrWriteDelayed v s).prev2Op = s.prev2Op ∧ (ramAddrWriteDelayed v s).stack0 = s.stack0 ∧
    (ramAddrWriteDelayed v s).stack1 = s.stack1 ∧ (ramAddrWriteDelayed v s).sp = s.sp ∧
    (ramAddrWriteDelayed v s).a = s.a ∧ (ramAddrWriteDelayed v s).prevA = s.prevA ∧
    (ramAddrWriteDelayed v s).prev2A = s.prev2A ∧ (ramAddrWriteDelayed v s).b = s.b ∧
    (ramAddrWriteDelayed v s).prevB = s.prevB ∧ (ramAddrWriteDelayed v s).prev2B = s.prev2B ∧
    (ramAddrWriteDelayed v s).ramAddr = s.ramAddr ∧ (ramAddrWriteDelayed v s).sag = s.sag ∧
    (ramAddrWriteDelayed v s).c = s.c ∧ (ramAddrWriteDelayed v s).prevC = s.prevC ∧
    (ramAddrWriteDelayed v s).cIn = s.cIn ∧ (ramAddrWriteDelayed v s).cDelay = s.cDelay ∧
    (ramAddrWriteDelayed v s).skip = s.skip ∧ (ramAddrWriteDelayed v s).skipCount = s.skipCount ∧
    (ramAddrWriteDelayed v s).icount = s.icount := by
  repeat' constructor

@[simp] theorem dataWrite_data (x : Nat) (v : Byte) (s : State) : (dataWrite x v s).data = writeByte s.data x v := rfl
@[simp] theorem dataWrite_frame (x : Nat) (v : Byte) (s : State) :
    (dataWrite x v s).cfg = s.cfg ∧ (dataWrite x v s).prog = s.prog ∧ (dataWrite x v s).priv = s.priv ∧
    (dataWrite x v s).pc = s.pc ∧ (dataWrite x v s).prevPc = s.prevPc ∧ (dataWrite x v s).op = s.op ∧
    (dataWrite x v s).prevOp = s.prevOp ∧ (dataWrite x v s).prev2Op = s.prev2Op ∧
    (dataWrite x v s).stack0 = s.stack0 ∧ (dataWrite x v s).stack1 = s.stack1 ∧ (dataWrite x v s).sp = s.sp ∧
    (dataWrite x v s).a = s.a ∧ (dataWrite x v s).prevA = s.prevA ∧ (dataWrite x v s).prev2A = s.prev2A ∧
    (dataWrite x v s).b = s.b ∧ (dataWrite x v s).prevB = s.prevB ∧ (dataWrite x v s).prev2B = s.prev2B ∧
    (dataWrite x v s).ramAddr = s.ramAddr ∧ (dataWrite x v s).ramAddrIn = s.ramAddrIn ∧
    (dataWrite x v s).ramDelay = s.ramDelay ∧ (dataWrite x v s).sag = s.sag ∧ (dataWrite x v s).c = s.c ∧
    (dataWrite x v s).prevC = s.prevC ∧ (dataWrite x v s).cIn = s.cIn ∧ (dataWrite x v s).cDelay = s.cDelay ∧
    (dataWrite x v s).skip = s.skip ∧ (dataWrite x v s).skipCount = s.skipCount ∧ (dataWrite x v s).icount = s.icount := by
  repeat' constructor

@[simp] theorem progWrite_prog (x : Nat) (v : Byte) (s : State) : (progWrite x v s).prog = writeByte s.prog (maskP s.cfg x) v := rfl
@[simp] theorem progWrite_frame (x : Nat) (v : Byte) (s : State) :
    (progWrite x v s).cfg = s.cfg ∧ (progWrite x v s).data = s.data ∧ (progWrite x v s).priv = s.priv ∧
    (progWrite x v s).pc = s.pc ∧ (progWrite x v s).prevPc = s.prevPc ∧ (progWrite x v s).op = s.op ∧
    (progWrite x v s).prevOp = s.prevOp ∧ (progWrite x v s).prev2Op = s.prev2Op ∧
    (progWrite x v s).stack0 = s.stack0 ∧ (progWrite x v s).stack1 = s.stack1 ∧ (progWrite x v s).sp = s.sp ∧
    (progWrite x v s).a = s.a ∧ (progWrite x v s).prevA = s.prevA ∧ (progWrite x v s).prev2A = s.prev2A ∧
    (progWrite x v s).b = s.b ∧ (progWrite x v s).prevB = s.prevB ∧ (progWrite x v s).prev2B = s.prev2B ∧
    (progWrite x v s).ramAddr = s.ramAddr ∧ (progWrite x v s).ramAddrIn = s.ramAddrIn ∧
    (progWrite x v s).ramDelay = s.ramDelay ∧ (progWrite x v s).sag = s.sag ∧ (progWrite x v s).c = s.c ∧
    (progWrite x v s).prevC = s.prevC ∧ (progWrite x v s).cIn = s.cIn ∧ (progWrite x v s).cDelay = s.cDelay ∧
    (progWrite x v s).skip = s.skip ∧ (progWrite x v s).skipCount = s.skipCount ∧ (progWrite x v s).icount = s.icount := by
  repeat' constructor

@[simp] theorem snapshot_prevPc (s : State) : (snapshot s).prevPc = s.pc := rfl
@[simp] theorem snapshot_prev2A (s : State) : (snapshot s).prev2A = s.prevA := rfl
@[simp] theorem snapshot_prevA (s : State) : (snapshot s).prevA = s.a := rfl
@[simp] theorem snapshot_prev2B (s : State) : (snapshot s).prev2B = s.prevB := rfl
@[simp] theorem snapshot_prevB (s : State) : (snapshot s).prevB = s.b := rfl
@[simp] theorem snapshot_prevC (s : State) : (snapshot s).prevC = s.c := rfl
@[simp] theorem snapshot_frame (s : State) :
    (snapshot s).cfg = s.cfg ∧ (snapshot s).prog = s.prog ∧ (snapshot s).data = s.data ∧ (snapshot s).priv = s.priv ∧
    (snapshot s).pc = s.pc ∧ (snapshot s).op = s.op ∧ (snapshot s).prevOp = s.prevOp ∧
    (snapshot s).prev2Op = s.prev2Op ∧ (snapshot s).stack0 = s.stack0 ∧ (snapshot s).stack1 = s.stack1 ∧
    (snapshot s).sp = s.sp ∧ (snapshot s).a = s.a ∧ (snapshot s).b = s.b ∧ (snapshot s).ramAddr = s.ramAddr ∧
    (snapshot s).ramAddrIn = s.ramAddrIn ∧ (snapshot s).ramDelay = s.ramDelay ∧ (snapshot s).sag = s.sag ∧
    (snapshot s).c = s.c ∧ (snapshot s).cIn = s.cIn ∧ (snapshot s).cDelay = s.cDelay ∧ (snapshot s).skip = s.skip ∧
    (snapshot s).skipCount = s.skipCount ∧ (snapshot s).icount = s.icount := by
  repeat' constructor

@[simp] theorem advance_pc (x : Byte) (s : State) : (advance x s).pc = maskP s.cfg (s.pc + 1) := rfl
@[simp] theorem advance_prev2Op (x : Byte) (s : State) : (advance x s).prev2Op = s.prevOp := rfl
@[simp] theorem advance_prevOp (x : Byte) (s : State) : (advance x s).prevOp = s.op := rfl
@[simp] theorem advance_op (x : Byte) (s : State) : (advance x s).op = x := rfl
@[simp] theorem advance_frame (x : Byte) (s : State) :
    (advance x s).cfg = s.cfg ∧ (advance x s).prog = s.prog ∧ (advance x s).data = s.data ∧
    (advance x s).priv = s.priv ∧ (advance x s).prevPc = s.prevPc ∧ (advance x s).stack0 = s.stack0 ∧
    (advance x s).stack1 = s.stack1 ∧ (advance x s).sp = s.sp ∧ (advance x s).a = s.a ∧
    (advance x s).prevA = s.prevA ∧ (advance x s).prev2A = s.prev2A ∧ (advance x s).b = s.b ∧
    (advance x s).prevB = s.prevB ∧ (advance x s).prev2B = s.prev2B ∧ (advance x s).ramAddr = s.ramAddr ∧
    (advance x s).ramAddrIn = s.ramAddrIn ∧ (advance x s).ramDelay = s.ramDelay ∧ (advance x s).sag = s.sag ∧
    (advance x s).c = s.c ∧ (advance x s).prevC = s.prevC ∧ (advance x s).cIn = s.cIn ∧
    (advance x s).cDelay = s.cDelay ∧ (advance x s).skip = s.skip ∧ (advance x s).skipCount = s.skipCount ∧
    (advance x s).icount = s.icount := by
  repeat' constructor

@[simp] theorem charge_icount (n : Int) (s : State) : (charge n s).icount = s.icount - n := rfl
@[simp] theorem charge_frame (n : Int) (s : State) :
    (charge n s).cfg = s.cfg ∧ (charge n s).prog = s.prog ∧ (charge n s).data = s.data ∧ (charge n s).priv = s.priv ∧
    (charge n s).pc = s.pc ∧ (charge n s).prevPc = s.prevPc ∧ (charge n s).op = s.op ∧
    (charge n s).prevOp = s.prevOp ∧ (charge n s).prev2Op = s.prev2Op ∧ (charge n s).stack0 = s.stack0 ∧
    (charge n s).stack1 = s.stack1 ∧ (charge n s).sp = s.sp ∧ (charge n s).a = s.a ∧ (charge n s).prevA = s.prevA ∧
    (charge n s).prev2A = s.prev2A ∧ (charge n s).b = s.b ∧ (charge n s).prevB = s.prevB ∧
    (charge n s).prev2B = s.prev2B ∧ (charge n s).ramAddr = s.ramAddr ∧ (charge n s).ramAddrIn = s.ramAddrIn ∧
    (charge n s).ramDelay = s.ramDelay ∧ (charge n s).sag = s.sag ∧ (charge n s).c = s.c ∧
    (charge n s).prevC = s.prevC ∧ (charge n s).cIn = s.cIn ∧ (charge n s).cDelay = s.cDelay ∧
    (charge n s).skip = s.skip ∧ (charge n s).skipCount = s.skipCount := by
  repeat' constructor

@[simp] theorem commitCarry_c (t : Slot) (s : State) : (commitCarry t s).c = if t.cDue then t.cDueV else s.c := by
  unfold commitCarry
  split_ifs <;> rfl
@[simp] theorem commitCarry_frame (t : Slot) (s : State) :
    (commitCarry t s).cfg = s.cfg ∧ (commitCarry t s).prog = s.prog ∧ (commitCarry t s).data = s.data ∧
    (commitCarry t s).priv = s.priv ∧ (commitCarry t s).pc = s.pc ∧ (commitCarry t s).prevPc = s.prevPc ∧
    (commitCarry t s).op = s.op ∧ (commitCarry t s).prevOp = s.prevOp ∧ (commitCarry t s).prev2Op = s.prev2Op ∧
    (commitCarry t s).stack0 = s.stack0 ∧ (commitCarry t s).stack1 = s.stack1 ∧ (commitCarry t s).sp = s.sp ∧
    (commitCarry t s).a = s.a ∧ (commitCarry t s).prevA = s.prevA ∧ (commitCarry t s).prev2A = s.prev2A ∧
    (commitCarry t s).b = s.b ∧ (commitCarry t s).prevB = s.prevB ∧ (commitCarry t s).prev2B = s.prev2B ∧
    (commitCarry t s).ramAddr = s.ramAddr ∧ (commitCarry t s).ramAddrIn = s.ramAddrIn ∧
    (commitCarry t s).ramDelay = s.ramDelay ∧ (commitCarry t s).sag = s.sag ∧ (commitCarry t s).prevC = s.prevC ∧
    (commitCarry t s).cIn = s.cIn ∧ (commitCarry t s).cDelay = s.cDelay ∧ (commitCarry t s).skip = s.skip ∧
    (commitCarry t s).skipCount = s.skipCount ∧ (commitCarry t s).icount = s.icount := by
  unfold commitCarry
  split_ifs <;> simp

@[simp] theorem commitRamAddr_ramAddr (t : Slot) (s : State) : (commitRamAddr t s).ramAddr = if t.rDue then t.rDueV else s.ramAddr := by
  unfold commitRamAddr
  split_ifs <;> rfl
@[simp] theorem commitRamAddr_frame (t : Slot) (s : State) :
    (commitRamAddr t s).cfg = s.cfg ∧ (commitRamAddr t s).prog = s.prog ∧ (commitRamAddr t s).data = s.data ∧
    (commitRamAddr t s).priv = s.priv ∧ (commitRamAddr t s).pc = s.pc ∧ (commitRamAddr t s).prevPc = s.prevPc ∧
    (commitRamAddr t s).op = s.op ∧ (commitRamAddr t s).prevOp = s.prevOp ∧ (commitRamAddr t s).prev2Op = s.prev2Op ∧
    (commitRamAddr t s).stack0 = s.stack0 ∧ (commitRamAddr t s).stack1 = s.stack1 ∧ (commitRamAddr t s).sp = s.sp ∧
    (commitRamAddr t s).a = s.a ∧ (commitRamAddr t s).prevA = s.prevA ∧ (commitRamAddr t s).prev2A = s.prev2A ∧
    (commitRamAddr t s).b = s.b ∧ (commitRamAddr t s).prevB = s.prevB ∧ (commitRamAddr t s).prev2B = s.prev2B ∧
    (commitRamAddr t s).ramAddrIn = s.ramAddrIn ∧ (commitRamAddr t s).ramDelay = s.ramDelay ∧
    (commitRamAddr t s).sag = s.sag ∧ (commitRamAddr t s).c = s.c ∧ (commitRamAddr t s).prevC = s.prevC ∧
    (commitRamAddr t s).cIn = s.cIn ∧ (commitRamAddr t s).cDelay = s.cDelay ∧ (commitRamAddr t s).skip = s.skip ∧
    (commitRamAddr t s).skipCount = s.skipCount ∧ (commitRamAddr t s).icount = s.icount := by
  unfold commitRamAddr
  split_ifs <;> simp

@[simp] theorem slot_with_st (t : Slot) (s : State) : (t.with s).st = s := rfl
@[simp] theorem slot_with_frame (t : Slot) (s : State) :
    (t.with s).cDue = t.cDue ∧ (t.with s).cDueV = t.cDueV ∧ (t.with s).rDue = t.rDue ∧ (t.with s).rDueV = t.rDueV := by
  repeat' constructor

@[simp] theorem age_st (s : State) : (age s).st = { s with cDelay := false, ramDelay := false } := rfl
@[simp] theorem age_due (s : State) :
    (age s).cDue = s.cDelay ∧ (age s).cDueV = s.cIn ∧ (age s).rDue = s.ramDelay ∧ (age s).rDueV = s.ramAddrIn := by
  repeat' constructor

@[simp] theorem carryWriteImmediate_st (v : Nat) (t : Slot) :
    (carryWriteImmediate v t).st = { t.st with c := carryBit v, cIn := carryBit v, cDelay := false } := rfl
@[simp] theorem carryWriteImmediate_due (v : Nat) (t : Slot) :
    (carryWriteImmediate v t).cDue = false ∧ (carryWriteImmediate v t).cDueV = t.cDueV ∧
    (carryWriteImmediate v t).rDue = t.rDue ∧ (carryWriteImmediate v t).rDueV = t.rDueV := by
  repeat' constructor

@[simp] theorem ramAddrWriteImmediate_st (v : Nat) (t : Slot) :
    (ramAddrWriteImmediate v t).st =
      { t.st with ramAddr := maskD t.st.cfg v, ramAddrIn := maskD t.st.cfg v, ramDelay := false } := rfl
@[simp] theorem ramAddrWriteImmediate_due (v : Nat) (t : Slot) :
    (ramAddrWriteImmediate v t).cDue = t.cDue ∧ (ramAddrWriteImmediate v t).cDueV = t.cDueV ∧
    (ramAddrWriteImmediate v t).rDue = false ∧ (ramAddrWriteImmediate v t).rDueV = t.rDueV := by
  repeat' constructor

@[simp] theorem beginSlot_st (x : Byte) (s : State) :
    (beginSlot x s).st = advance x { snapshot s with cDelay := false, ramDelay := false } := rfl
@[simp] theorem beginSlot_due (x : Byte) (s : State) :
    (beginSlot x s).cDue = s.cDelay ∧ (beginSlot x s).cDueV = s.cIn ∧
    (beginSlot x s).rDue = s.ramDelay ∧ (beginSlot x s).rDueV = s.ramAddrIn := by
  repeat' constructor

/-- A slot that only begins and ends does exactly what R112 has outside phase S4. -/
theorem endSlot_beginSlot (x : Byte) (n : Int) (s : State) : endSlot n (beginSlot x s) = plainSlot x n s := by
  cases hc : s.cDelay <;> cases hr : s.ramDelay <;>
    simp [endSlot, charge, commit, commitCarry, commitRamAddr, beginSlot, age, advance, snapshot, plainSlot, maskP, hc, hr]

end Sys2Proof.Machine
end

