-- ==== Sys2Proof/Laws/Slot.lean ====
section
/-! SUPPORT. Laws/Slot.lean: everything an execute_one call can do, once: which fields it leaves alone (R214), and that
it keeps the invariant inside a slot and never faults under it (R219). -/

namespace Sys2Proof.Machine

theorem maskP_le (g : Config) (v : Nat) : maskP g v ≤ g.pmask := Nat.and_le_right
theorem maskD_le (g : Config) (v : Nat) : maskD g v ≤ g.dmask := Nat.and_le_right

theorem countDown_zero_iff (n : Fin 3) : countDown n = 0 ↔ n ≠ 2 := by revert n; decide

/-- What no `execute_one` call changes, whatever the variant (R214): the configuration, the opcode history, `prev_pc`,
the register and carry histories and `icount`. -/
def Untouched (s s' : State) : Prop :=
  s'.cfg = s.cfg ∧ s'.op = s.op ∧ s'.prevOp = s.prevOp ∧ s'.prev2Op = s.prev2Op ∧ s'.prevPc = s.prevPc ∧
  s'.prevA = s.prevA ∧ s'.prev2A = s.prev2A ∧ s'.prevB = s.prevB ∧ s'.prev2B = s.prev2B ∧ s'.prevC = s.prevC ∧
  s'.icount = s.icount

theorem Untouched.refl (s : State) : Untouched s s := by repeat' constructor

theorem Untouched.trans {s s' s'' : State} (h : Untouched s s') (h' : Untouched s' s'') : Untouched s s'' := by
  unfold Untouched at *
  obtain ⟨a1, a2, a3, a4, a5, a6, a7, a8, a9, a10, a11⟩ := h
  obtain ⟨b1, b2, b3, b4, b5, b6, b7, b8, b9, b10, b11⟩ := h'
  exact ⟨b1.trans a1, b2.trans a2, b3.trans a3, b4.trans a4, b5.trans a5, b6.trans a6, b7.trans a7, b8.trans a8,
    b9.trans a9, b10.trans a10, b11.trans a11⟩

/-- An `execute_one` call that completes leaves the fields of R214 it may not write. -/
theorem perform_untouched {x : Action} {t t' : Slot} {k : Cost} (h : perform x t = .next (t', k)) :
    Untouched t.st t'.st := by
  induction x generalizing t with
  | done cost =>
    simp only [perform, Host.Outcome.next.injEq, Prod.mk.injEq] at h
    rw [← h.1]; exact Untouched.refl _
  | unmapped => simp [perform] at h
  | dataRead k ih =>
    simp only [perform] at h
    split at h
    · exact ih _ h
    · cases h
  | dataWrite v k ih =>
    simp only [perform] at h
    split at h
    · exact Untouched.trans (by simp [Untouched]) (ih h)
    · cases h
  | segLookup v k ih =>
    simp only [perform] at h
    split at h
    · exact ih _ h
    · cases h
  | pop k ih => exact Untouched.trans (by simp [Untouched]) (ih _ h)
  | writeA v k ih | writeB v k ih | writeSag v k ih | pcLoad v k ih | push v k ih | skipRequest k ih
  | carryWriteDelayed v k ih | carryWriteImmediate v k ih | ramAddrWriteDelayed v k ih
  | ramAddrWriteImmediate v k ih | progWrite a v k ih | writePriv v k ih =>
    exact Untouched.trans (by simp [Untouched]) (ih h)
  | readOp k ih | readPrevOp k ih | readPrev2Op k ih | readPc k ih | readPrevPc k ih | readA k ih | readB k ih
  | readPrevA k ih | readPrev2A k ih | readPrevB k ih | readPrev2B k ih | readPrevC k ih | readSag k ih
  | carryRead k ih | carryInRead k ih | ramAddrRead k ih | progRead a k ih | readPriv k ih =>
    exact ih _ h

/-- The invariant inside a slot: R36 with the due commits in the place of the values they will become. The skip fields
are free here: `execute_one` runs only where they are 0 (R32), and can only make a fresh request of them. -/
structure SlotInv (t : Slot) : Prop where
  pc : t.st.pc ≤ t.st.cfg.pmask
  prevPc : t.st.prevPc ≤ t.st.cfg.pmask
  stack0 : t.st.stack0 ≤ t.st.cfg.pmask
  stack1 : t.st.stack1 ≤ t.st.cfg.pmask
  ramAddr : t.st.ramAddr ≤ t.st.cfg.dmask
  ramAddrIn : t.st.ramAddrIn ≤ t.st.cfg.dmask
  rDueV : t.rDueV ≤ t.st.cfg.dmask
  carry : t.st.cDelay = false → t.st.cIn = if t.cDue then t.cDueV else t.st.c
  ram : t.st.ramDelay = false → t.st.ramAddrIn = if t.rDue then t.rDueV else t.st.ramAddr
  skip : t.st.skip = true → t.st.skipCount = 1
  count : t.st.skipCount ≠ 2
  prog : Memory.wf t.st.prog = true
  progIn : Memory.within t.st.cfg.pmask t.st.prog = true
  data : Memory.wf t.st.data = true
  dataIn : Memory.within t.st.cfg.dmask t.st.data = true

theorem beginSlot_inv {s : State} (x : Byte) (h : s.Inv) : SlotInv (beginSlot x s) := by
  obtain ⟨⟨h1, h2, h3, h4⟩, ⟨h5, h6⟩, ⟨h7, h8⟩, ⟨h9, h10⟩, ⟨h11, h12⟩, h13, h14⟩ := h
  constructor <;> simp_all [maskP_le]

theorem endSlot_inv {t : Slot} (n : Int) (h : SlotInv t) : (endSlot n t).Inv := by
  obtain ⟨h1, h2, h3, h4, h5, h6, h7, h8, h9, h10, h11, h12, h13, h14, h15⟩ := h
  refine ⟨⟨?_, ?_, ?_, ?_⟩, ⟨?_, ?_⟩, ⟨?_, ?_⟩, ⟨?_, ?_⟩, ⟨?_, ?_⟩, ?_, ?_⟩ <;> simp_all [endSlot, commit]
  split_ifs <;> assumption

/-- Under the invariant the data port is presented an address of data space (R64). -/
theorem dataAddress_of_inv {t : Slot} (h : SlotInv t) : dataAddress t.st = some t.st.ramAddr := by
  simp [dataAddress, h.ramAddr]

theorem popped_le {t : Slot} (h : SlotInv t) : popped t.st ≤ t.st.cfg.pmask := by
  unfold popped
  split_ifs
  · exact h.stack0
  · exact h.stack1

/-- An `execute_one` call that completes keeps the invariant, whatever the variant (R219). -/
theorem perform_inv {x : Action} {t t' : Slot} {k : Cost} (i : SlotInv t) (h : perform x t = .next (t', k)) :
    SlotInv t' := by
  induction x generalizing t with
  | done cost =>
    simp only [perform, Host.Outcome.next.injEq, Prod.mk.injEq] at h
    rw [← h.1]; exact i
  | unmapped => simp [perform] at h
  | dataRead k ih =>
    simp only [perform, dataAddress_of_inv i] at h
    exact ih _ i h
  | dataWrite v k ih =>
    simp only [perform, dataAddress_of_inv i] at h
    refine ih ?_ h
    obtain ⟨h1, h2, h3, h4, h5, h6, h7, h8, h9, h10, h11, h12, h13, h14, h15⟩ := i
    constructor <;> simp_all [wf_writeByte, within_writeByte]
  | progWrite a v k ih =>
    refine ih ?_ h
    obtain ⟨h1, h2, h3, h4, h5, h6, h7, h8, h9, h10, h11, h12, h13, h14, h15⟩ := i
    constructor <;> simp_all [wf_writeByte, within_writeByte, maskP_le]
  | segLookup v k ih =>
    simp only [perform] at h
    split at h
    · exact ih _ i h
    · cases h
  | pop k ih =>
    refine ih _ ?_ h
    obtain ⟨h1, h2, h3, h4, h5, h6, h7, h8, h9, h10, h11, h12, h13, h14, h15⟩ := i
    constructor <;> simp_all
  | push v k ih =>
    refine ih ?_ h
    obtain ⟨h1, h2, h3, h4, h5, h6, h7, h8, h9, h10, h11, h12, h13, h14, h15⟩ := i
    constructor <;> simp_all <;> split_ifs <;> simp_all [maskP_le]
  | writeA v k ih | writeB v k ih | writeSag v k ih | pcLoad v k ih | skipRequest k ih
  | carryWriteDelayed v k ih | carryWriteImmediate v k ih | ramAddrWriteDelayed v k ih
  | ramAddrWriteImmediate v k ih | writePriv v k ih =>
    refine ih ?_ h
    obtain ⟨h1, h2, h3, h4, h5, h6, h7, h8, h9, h10, h11, h12, h13, h14, h15⟩ := i
    constructor <;> simp_all [maskP_le, maskD_le]
  | readOp k ih | readPrevOp k ih | readPrev2Op k ih | readPc k ih | readPrevPc k ih | readA k ih | readB k ih
  | readPrevA k ih | readPrev2A k ih | readPrevB k ih | readPrev2B k ih | readPrevC k ih | readSag k ih
  | carryRead k ih | carryInRead k ih | ramAddrRead k ih | progRead a k ih | readPriv k ih =>
    exact ih _ i h

/-- What an `execute_one` call can do to the commits due at the end of its slot, whatever the variant: cancel them
(R186, R191). The values to be committed stay. -/
theorem perform_due {x : Action} {t t' : Slot} {k : Cost} (h : perform x t = .next (t', k)) :
    t'.cDueV = t.cDueV ∧ t'.rDueV = t.rDueV ∧ (t'.cDue = true → t.cDue = true) ∧ (t'.rDue = true → t.rDue = true) := by
  induction x generalizing t with
  | done cost =>
    simp only [perform, Host.Outcome.next.injEq, Prod.mk.injEq] at h
    rw [← h.1]; simp
  | unmapped => simp [perform] at h
  | dataRead k ih =>
    simp only [perform] at h; split at h
    · exact ih _ h
    · cases h
  | dataWrite v k ih =>
    simp only [perform] at h; split at h
    · simpa [Slot.with] using ih h
    · cases h
  | segLookup v k ih =>
    simp only [perform] at h; split at h
    · exact ih _ h
    · cases h
  | pop k ih => simpa [Slot.with] using ih _ h
  | carryWriteImmediate v k ih =>
    have := ih h; simp [carryWriteImmediate] at this ⊢; simp_all
  | ramAddrWriteImmediate v k ih =>
    have := ih h; simp [ramAddrWriteImmediate] at this ⊢; simp_all
  | writeA v k ih | writeB v k ih | writeSag v k ih | pcLoad v k ih | push v k ih | skipRequest k ih
  | carryWriteDelayed v k ih | ramAddrWriteDelayed v k ih
  | progWrite a v k ih | writePriv v k ih => simpa [Slot.with] using ih h
  | readOp k ih | readPrevOp k ih | readPrev2Op k ih | readPc k ih | readPrevPc k ih | readA k ih | readB k ih
  | readPrevA k ih | readPrev2A k ih | readPrevB k ih | readPrev2B k ih | readPrevC k ih | readSag k ih
  | carryRead k ih | carryInRead k ih | ramAddrRead k ih | progRead a k ih | readPriv k ih =>
    exact ih _ h

end Sys2Proof.Machine
end

