-- ==== Sys2Proof/Laws/Agreement.lean ====
section
/-! SUPPORT. Laws/Agreement.lean: what the agreement of a variant's two operations gives for one slot. -/

namespace Sys2Proof.Machine

/-- Where the two operations agree, an executed slot is that of the instructions' own account of the position. -/
theorem executedSlot_of_agreesAt {second : Bool} {s : State} (h : agreesAt second s) (h0 : s.skipCount = 0) :
    executedSlot (nextByte s) (contractOf s.cfg.variant).executeOne s =
      executedSlot (nextByte s) ((contractOf s.cfg.variant).byPosition second) s := by
  unfold executedSlot; rw [h h0]

theorem secondFollows_of_suppressed {s : State} (second : Bool) (h : s.skipCount ≠ 0) :
    secondFollows second s = false := by simp [secondFollows, h]

theorem secondFollows_of_second (s : State) : secondFollows true s = false := by simp [secondFollows]

theorem secondFollows_of_first {s : State} (h : s.skipCount = 0) :
    secondFollows false s = opIsPrefix s.cfg.variant (nextByte s) := by simp [secondFollows, h]

end Sys2Proof.Machine
end

