-- ==== Sys2Proof/Laws/Decode.lean ====
section
/-! SUPPORT. Laws/Decode.lean: no byte selects two rows of T0's table, and the rows cover exactly the bytes R265 does not
list. -/

namespace Sys2Proof

open Machine

/-- Two rows select no byte in common: they ask different values of a bit that both look at. -/
def Row.apart (r r' : Row) : Bool := decide (r.value &&& r'.mask ≠ r'.value &&& r.mask)

/-- T0's decoding is unambiguous (R101): the order of the rows does not matter. -/
theorem t0Rows_apart : t0Rows.Pairwise (fun r r' => r.apart r' = true) := by decide

/-- A byte has no row exactly when R265 lists it. -/
theorem t0Rows_cover : ∀ b : Byte, (t0Rows.any fun r => b &&& r.mask == r.value) = !t0Unmapped b := by decide

theorem t0IsPrefix_cases {b : Byte} (h : t0IsPrefix b = true) : b = 0x80#8 ∨ b = 0x81#8 := by
  simpa [t0IsPrefix] using h

theorem t0Row_build_of_classN {b c : Byte} (h : t0IsPrefix b = false) :
    ∀ r : Row, r ∈ t0Rows → (b &&& r.mask == r.value) = true → r.build b c = r.build b 0#8 := by
  intro r hr hm
  simp only [t0Rows, t0FixedRows, t0FieldRows, List.cons_append, List.nil_append, List.mem_cons, List.not_mem_nil,
    or_false] at hr
  rcases hr with rfl | rfl | rfl | rfl | rfl | rfl | rfl | rfl | rfl | rfl | rfl | rfl | rfl | rfl | rfl | rfl | rfl |
    rfl | rfl | rfl | rfl | rfl | rfl <;> try rfl
  · exfalso; simp [t0IsPrefix] at h hm; revert b; decide
  · exfalso; simp [t0IsPrefix] at h hm; revert b; decide

/-- Reading a byte of class N does not look at the byte after it (R91). -/
theorem t0Pair_of_classN {b : Byte} (c : Byte) (h : t0IsPrefix b = false) : t0Pair b c = t0Pair b 0#8 := by
  unfold t0Pair
  cases hf : t0Rows.find? (fun r : Row => b &&& r.mask == r.value) with
  | none => simp [genericPair, opIsPrefix, h]
  | some r =>
    exact t0Row_build_of_classN h r (List.mem_of_find?_eq_some hf)
      (List.find?_some (p := fun r : Row => b &&& r.mask == r.value) hf)

theorem t0Pair_jmp (c : Byte) : t0Pair 0x80#8 c = twoByte .jmp 0x80#8 c := rfl
theorem t0Pair_call (c : Byte) : t0Pair 0x81#8 c = twoByte .call 0x81#8 c := rfl

/-- A second byte with bit 7 clear is the address field widened with a 0. -/
theorem fieldAA_widened : ∀ c : Byte, c.getLsbD 7 = false → (0#1 ++ fieldAA c : BitVec 8) = c := by decide

end Sys2Proof
end

