-- ==== Sys2Proof/Laws/PerInstr.lean ====
section
/-! SUPPORT. Laws/PerInstr.lean: facts stated for each instruction as syntax, one lemma a constructor. -/

namespace Sys2Proof.Laws

/-- The length of a well-formed instruction is 2 if `op_is_prefix` of its first byte is true and 1 otherwise (R94). -/
def EncodedLength.Statement (i : Instr) : Prop :=
  ∀ v : Variant, i.wellFormed v = true →
    ∃ b0 rest, encode i = b0 :: rest ∧ rest.length = if Machine.opIsPrefix v b0 then 1 else 0

theorem EncodedLength.byte (opcode : Byte) : EncodedLength.Statement (.byte opcode) := by
  intro v h
  simp only [Instr.wellFormed, Bool.and_eq_true, Bool.not_eq_true'] at h
  exact ⟨opcode, [], rfl, by simp [h.1]⟩

theorem EncodedLength.prefix2 (first second : Byte) : EncodedLength.Statement (.prefix2 first second) := by
  intro v h
  simp only [Instr.wellFormed, Bool.and_eq_true] at h
  exact ⟨first, [second], rfl, by simp [h.1]⟩

theorem EncodedLength.nop : EncodedLength.Statement .nop := by
  intro v h
  obtain rfl : v = .t0 := by simpa [Instr.wellFormed] using h
  exact ⟨_, _, rfl, rfl⟩

theorem EncodedLength.nop2 : EncodedLength.Statement .nop2 := by
  intro v h
  obtain rfl : v = .t0 := by simpa [Instr.wellFormed] using h
  exact ⟨_, _, rfl, rfl⟩

theorem EncodedLength.skip : EncodedLength.Statement .skip := by
  intro v h
  obtain rfl : v = .t0 := by simpa [Instr.wellFormed] using h
  exact ⟨_, _, rfl, rfl⟩

theorem EncodedLength.skc : EncodedLength.Statement .skc := by
  intro v h
  obtain rfl : v = .t0 := by simpa [Instr.wellFormed] using h
  exact ⟨_, _, rfl, rfl⟩

theorem EncodedLength.sc : EncodedLength.Statement .sc := by
  intro v h
  obtain rfl : v = .t0 := by simpa [Instr.wellFormed] using h
  exact ⟨_, _, rfl, rfl⟩

theorem EncodedLength.rc : EncodedLength.Statement .rc := by
  intro v h
  obtain rfl : v = .t0 := by simpa [Instr.wellFormed] using h
  exact ⟨_, _, rfl, rfl⟩

theorem EncodedLength.sci : EncodedLength.Statement .sci := by
  intro v h
  obtain rfl : v = .t0 := by simpa [Instr.wellFormed] using h
  exact ⟨_, _, rfl, rfl⟩

theorem EncodedLength.rci : EncodedLength.Statement .rci := by
  intro v h
  obtain rfl : v = .t0 := by simpa [Instr.wellFormed] using h
  exact ⟨_, _, rfl, rfl⟩

theorem EncodedLength.ret : EncodedLength.Statement .ret := by
  intro v h
  obtain rfl : v = .t0 := by simpa [Instr.wellFormed] using h
  exact ⟨_, _, rfl, rfl⟩

theorem EncodedLength.retsk : EncodedLength.Statement .retsk := by
  intro v h
  obtain rfl : v = .t0 := by simpa [Instr.wellFormed] using h
  exact ⟨_, _, rfl, rfl⟩

theorem EncodedLength.ld : EncodedLength.Statement .ld := by
  intro v h
  obtain rfl : v = .t0 := by simpa [Instr.wellFormed] using h
  exact ⟨_, _, rfl, rfl⟩

theorem EncodedLength.st : EncodedLength.Statement .st := by
  intro v h
  obtain rfl : v = .t0 := by simpa [Instr.wellFormed] using h
  exact ⟨_, _, rfl, rfl⟩

theorem EncodedLength.xab : EncodedLength.Statement .xab := by
  intro v h
  obtain rfl : v = .t0 := by simpa [Instr.wellFormed] using h
  exact ⟨_, _, rfl, rfl⟩

theorem EncodedLength.lapp : EncodedLength.Statement .lapp := by
  intro v h
  obtain rfl : v = .t0 := by simpa [Instr.wellFormed] using h
  exact ⟨_, _, rfl, rfl⟩

theorem EncodedLength.skaz : EncodedLength.Statement .skaz := by
  intro v h
  obtain rfl : v = .t0 := by simpa [Instr.wellFormed] using h
  exact ⟨_, _, rfl, rfl⟩

theorem EncodedLength.adc : EncodedLength.Statement .adc := by
  intro v h
  obtain rfl : v = .t0 := by simpa [Instr.wellFormed] using h
  exact ⟨_, _, rfl, rfl⟩

theorem EncodedLength.lai (n : Nibble) : EncodedLength.Statement (.lai n) := by
  intro v h
  obtain rfl : v = .t0 := by simpa [Instr.wellFormed] using h
  exact ⟨_, _, rfl, by revert n; decide⟩

theorem EncodedLength.lb (n : Nibble) : EncodedLength.Statement (.lb n) := by
  intro v h
  obtain rfl : v = .t0 := by simpa [Instr.wellFormed] using h
  exact ⟨_, _, rfl, by revert n; decide⟩

theorem EncodedLength.lbi (n : Nibble) : EncodedLength.Statement (.lbi n) := by
  intro v h
  obtain rfl : v = .t0 := by simpa [Instr.wellFormed] using h
  exact ⟨_, _, rfl, by revert n; decide⟩

theorem EncodedLength.adi (n : Nibble) : EncodedLength.Statement (.adi n) := by
  intro v h
  obtain rfl : v = .t0 := by simpa [Instr.wellFormed] using h
  exact ⟨_, _, rfl, by revert n; decide⟩

theorem EncodedLength.lar : EncodedLength.Statement .lar := by
  intro v h
  obtain rfl : v = .t0 := by simpa [Instr.wellFormed] using h
  exact ⟨_, _, rfl, rfl⟩

theorem EncodedLength.jmp (aa : BitVec 7) : EncodedLength.Statement (.jmp aa) := by
  intro v h
  obtain rfl : v = .t0 := by simpa [Instr.wellFormed] using h
  exact ⟨_, _, rfl, rfl⟩

theorem EncodedLength.call (aa : BitVec 7) : EncodedLength.Statement (.call aa) := by
  intro v h
  obtain rfl : v = .t0 := by simpa [Instr.wellFormed] using h
  exact ⟨_, _, rfl, rfl⟩

end Sys2Proof.Laws
end

