-- ==== Sys2Proof/Laws/Step.lean ====
section
/-! SUPPORT. Laws/Step.lean: which instruction a slot runs, which byte it fetches for it, and that the two kinds of slot
keep the invariant. -/

namespace Sys2Proof.Machine

theorem executedSlot_inv {x : Byte} {act : Action} {s t : State} (i : s.Inv)
    (h : executedSlot x act s = .next t) : t.Inv := by
  unfold executedSlot at h
  split at h
  · rename_i u k hp
    cases h
    exact endSlot_inv _ (perform_inv (beginSlot_inv x i) hp)
  · cases h
  · cases h

theorem countDown_lookahead_ne_two {s : State} (h : s.skipCount ≠ 2) : countDown (lookahead s) ≠ 2 := by
  unfold lookahead countDown
  generalize s.skipCount = n at *
  split_ifs <;> fin_cases n <;> simp_all

theorem suppressedSlot_inv {x : Byte} {s : State} (i : s.Inv) : (suppressedSlot x s).Inv := by
  unfold suppressedSlot
  apply endSlot_inv
  obtain ⟨h1, h2, h3, h4, h5, h6, h7, h8, h9, h10, h11, h12, h13, h14, h15⟩ := beginSlot_inv x i
  have key := countDown_lookahead_ne_two h11
  constructor <;> simp_all

/-- Under the invariant the program port is presented an address of program space (R64). -/
theorem fetchByte_of_le {s : State} (h : s.pc ≤ s.cfg.pmask) : fetchByte s = some (readByte s.prog s.pc) := by
  simp [fetchByte, fetchAddress, h]

theorem instrAt_second {s : State} {byte : Byte} (h : opIsPrefix s.cfg.variant s.op = true) :
    instrAt byte s = decodePair s.cfg.variant s.op byte := by simp [instrAt, instrBytes, h]

theorem instrAt_first {s : State} {byte : Byte} (h : opIsPrefix s.cfg.variant s.op = false) :
    instrAt byte s = decodePair s.cfg.variant byte (byteAfter s) := by simp [instrAt, instrBytes, h]

theorem exec_genericPair (v : Variant) (p q : Byte) (s : State) :
    exec (genericPair v p q) s =
      executedSlot (if opIsPrefix v p then (if s.op = p then q else p) else p)
        (contractOf s.cfg.variant).executeOne s := by
  unfold genericPair; split <;> rfl

/-- A slot of a T0 row is the slot whose `execute_one` call is that row's. -/
theorem exec_t0Row (i : Instr) (s : State) (h : t0Row i = true) :
    exec i s = executedSlot (slotByte i s.op) (t0Action i) s := by
  cases i <;> first | rfl | simp [t0Row] at h

/-- T0's `execute_one` in a slot: the second-byte test on the byte fetched before, then the row (R240). -/
theorem executedSlot_t0 (byte : Byte) (s : State) :
    executedSlot byte t0ExecuteOne s =
      executedSlot byte
        (t0Action (if t0IsPrefix s.op then t0Pair s.op byte else t0Pair byte 0x00#8)) s := rfl

theorem slotByte_prefixPair (p c before : Byte) (h : t0IsPrefix p = true) :
    slotByte (t0Pair p c) before = if before = p then c else p := by
  rcases t0IsPrefix_cases h with rfl | rfl
  · rw [t0Pair_jmp]; unfold twoByte; split_ifs <;> simp_all [slotByte, encode, withAA, fieldAA_widened]
  · rw [t0Pair_call]; unfold twoByte; split_ifs <;> simp_all [slotByte, encode, withAA, fieldAA_widened]

theorem encode_t0Pair_classN : ∀ b : Byte, t0IsPrefix b = false → encode (t0Pair b 0#8) = [b] := by decide

theorem slotByte_classN (b before : Byte) (h : t0IsPrefix b = false) : slotByte (t0Pair b 0#8) before = b := by
  simp [slotByte, encode_t0Pair_classN b h]

theorem t0Pair_prefixPair {p : Byte} (q : Byte) (h : t0IsPrefix p = true) :
    (q.getLsbD 7 = true ∧ t0Pair p q = .prefix2 p q) ∨ (q.getLsbD 7 = false ∧ t0Row (t0Pair p q) = true) := by
  rcases t0IsPrefix_cases h with rfl | rfl
  · rw [t0Pair_jmp]; unfold twoByte; cases q.getLsbD 7 <;> simp [t0Row]
  · rw [t0Pair_call]; unfold twoByte; cases q.getLsbD 7 <;> simp [t0Row]

/-- The slot of a prefix byte of T0 has no effect but its cost of 1, whatever byte follows (R262, R263). -/
theorem t0_firstSlot {p : Byte} (q : Byte) {s : State} (h : t0IsPrefix p = true) (hne : s.op ≠ p) :
    executedSlot p (t0Action (t0Pair p q)) s = .next (endSlot 1 (beginSlot p s)) := by
  rcases t0IsPrefix_cases h with rfl | rfl
  · rw [t0Pair_jmp]; unfold twoByte
    cases q.getLsbD 7 <;> simp [t0Action, actJmp, executedSlot, perform, hne, costCycles]
  · rw [t0Pair_call]; unfold twoByte
    cases q.getLsbD 7 <;> simp [t0Action, actCall, executedSlot, perform, hne, costCycles]

theorem t0Pair_generic : ∀ b : Byte, t0IsPrefix b = false → t0Row (t0Pair b 0#8) = false →
    t0Pair b 0#8 = .byte b := by decide

end Sys2Proof.Machine
end

