-- ==== Sys2Proof/Tests/Slice0.lean ====
section
/-! SUPPORT. Tests/Slice0.lean: small checks of one step each, with expected values from 95_test_vectors.md or, where no
vector stands there, from the rule named; and, for every statement with hypotheses, a state that meets them. -/

namespace Sys2Proof.Tests

open Sys2Proof Sys2Proof.Machine

/-- The reset state at an address, with bytes stored from there on. -/
def put (addr : Nat) (bytes : List Byte) : State :=
  { State.reset with
    pc := addr
    prog := bytes.zipIdx.foldl (fun m x => writeByte m ((addr + x.2) &&& 0x3F) x.1) [] }

/-- One slot of a program of T0 at address 0, from registers set by `f`, seen through `g`. -/
def see {α : Type} (bytes : List Byte) (f : State → State) (g : State → α) : Option α :=
  match step (f (put 0 bytes)) with
  | .next t => some (g t)
  | .fault _ => none
  | .refused _ => none

/-- The same under the probe contract, at an address. -/
def seeProbe {α : Type} (addr : Nat) (bytes : List Byte) (f : State → State) (g : State → α) : Option α :=
  match step (f { put addr bytes with cfg := { Config.t0 with variant := .probe } }) with
  | .next t => some (g t)
  | .fault _ => none
  | .refused _ => none

/-- Why a slot was refused. -/
def refusal (s : State) : Option Refusal :=
  match step s with
  | .next _ => none
  | .fault _ => none
  | .refused r => some r

/-- `carry = c/i/d` of the vectors. -/
def carry (s : State) : Bit × Bit × Bool := (s.c, s.cIn, s.cDelay)

/-- `ram = r/s/d` of the vectors. -/
def ram (s : State) : Nat × Nat × Bool := (s.ramAddr, s.ramAddrIn, s.ramDelay)

/-- `skip = f/n` of the vectors. -/
def skipOf (s : State) : Bool × Fin 3 := (s.skip, s.skipCount)

/-- `stk = [x,y] sp n` of the vectors. -/
def stk (s : State) : Nat × Nat × Fin 3 := (s.stack0, s.stack1, s.sp)

/-! ## Terms that are not well formed: one for each check. -/

theorem test_wf_byte_with_t0_row : (Instr.byte 0x02#8).wellFormed .t0 = false := by decide
theorem test_wf_byte_of_class_P : (Instr.byte 0x80#8).wellFormed .t0 = false := by decide
theorem test_wf_byte_of_class_P_probe : (Instr.byte 0x81#8).wellFormed .probe = false := by decide
theorem test_wf_prefix2_of_class_N : (Instr.prefix2 0x10#8 0x90#8).wellFormed .t0 = false := by decide
theorem test_wf_prefix2_of_class_N_probe : (Instr.prefix2 0x10#8 0x00#8).wellFormed .probe = false := by decide
theorem test_wf_prefix2_with_t0_row : (Instr.prefix2 0x80#8 0x7F#8).wellFormed .t0 = false := by decide
theorem test_wf_t0_rows_not_probe :
    (t0Rows.all fun r => !(r.build r.value 0x00#8).wellFormed .probe) = true := by decide

/-! ## Decoding: words written out from the encodings of R242 to R264, R91 and R92. -/

theorem test_decode_rows_without_field :
    decodeTableWord 8 0b00000000 = some .nop ∧ decodeTableWord 8 0b00000001 = some .nop2 ∧
    decodeTableWord 8 0b00000010 = some .skip ∧ decodeTableWord 8 0b00000011 = some .skc ∧
    decodeTableWord 8 0b00000100 = some .sc ∧ decodeTableWord 8 0b00000101 = some .rc ∧
    decodeTableWord 8 0b00000110 = some .sci ∧ decodeTableWord 8 0b00000111 = some .rci ∧
    decodeTableWord 8 0b00001000 = some .ret ∧ decodeTableWord 8 0b00001001 = some .retsk ∧
    decodeTableWord 8 0b00001010 = some .ld ∧ decodeTableWord 8 0b00001011 = some .st ∧
    decodeTableWord 8 0b00001100 = some .xab ∧ decodeTableWord 8 0b00001101 = some .lapp ∧
    decodeTableWord 8 0b00001110 = some .skaz ∧ decodeTableWord 8 0b00001111 = some .adc ∧
    decodeTableWord 8 0b01010000 = some .lar := by decide
theorem test_decode_rows_with_nibble :
    decodeTableWord 8 0b00010000 = some (.lai 0#4) ∧ decodeTableWord 8 0b00011011 = some (.lai 11#4) ∧
    decodeTableWord 8 0b00100001 = some (.lb 1#4) ∧ decodeTableWord 8 0b00111000 = some (.lbi 8#4) ∧
    decodeTableWord 8 0b01001111 = some (.adi 15#4) := by decide
theorem test_decode_two_byte_rows :
    decodeTableWord 16 0b0111111110000000 = some (.jmp 0x7F#7) ∧
    decodeTableWord 16 0b0100000010000001 = some (.call 0x40#7) := by decide
theorem test_decode_generic_rows :
    decodeTableWord 8 0b01010001 = some (.byte 0x51#8) ∧ decodeTableWord 8 0b11111111 = some (.byte 0xFF#8) ∧
    decodeTableWord 16 0b1000000010000001 = some (.prefix2 0x81#8 0x80#8) := by decide
theorem test_decode_probe :
    decode .probe [0x02#8, 0x33#8] = .ok (.byte 0x02#8, [0x33#8]) ∧
    decode .probe [0x80#8, 0x10#8, 0x33#8] = .ok (.prefix2 0x80#8 0x10#8, [0x33#8]) := ⟨rfl, rfl⟩
theorem test_decode_rejects :
    decode .t0 [] = .error .noByte ∧ decode .t0 [0x81#8] = .error (.secondByteMissing 0x81#8) := ⟨rfl, rfl⟩
/-- No two rows select one byte: some bit that both rows fix differs. -/
theorem test_t0_rows_disjoint :
    t0Rows.Pairwise fun r r' => r.mask &&& r'.mask &&& (r.value ^^^ r'.value) ≠ 0#8 := by decide

/-! ## One slot of each instruction. The vector or rule is named beside each. -/

/-- Q4. -/
theorem test_byte_probe_histories :
    seeProbe 0x05 [0x33#8]
      (fun s => { s with a := 3, prevA := 1, b := 4, prevB := 2, c := 1, op := 0x11#8, prevOp := 0x22#8 })
      (fun t => ([t.pc, t.prevPc, t.op.toNat, t.prevOp.toNat, t.prev2Op.toNat, t.a.toNat, t.prevA.toNat, t.prev2A.toNat,
        t.b.toNat, t.prevB.toNat, t.prev2B.toNat, t.prevC.toNat, t.c.toNat], t.icount)) =
    some ([0x06, 0x05, 0x33, 0x11, 0x22, 3, 3, 1, 4, 4, 2, 1, 1], -1) := by decide
/-- Q1, slot 1. -/
theorem test_byte_probe_wraps : seeProbe 0x3F [0xAA#8] id (fun t => (t.pc, t.prevPc, t.op)) = some (0x00, 0x3F, 0xAA#8) := by
  decide
/-- V18. -/
theorem test_byte_t0_refuses : refusal (put 0 [0x51#8]) = some (.unmappedByte 0x51#8) := by decide
/-- S2, slot 2: the second byte, suppressed. -/
theorem test_prefix2_second_suppressed :
    seeProbe 0x0B [0x66#8] (fun s => { s with op := 0x80#8, skipCount := 1 }) (fun t => (t.pc, skipOf t, t.op, t.prevOp)) =
    some (0x0C, (false, 0), 0x66#8, 0x80#8) := by decide
/-- S2, slot 1: the prefix byte, suppressed. -/
theorem test_prefix2_first_suppressed :
    seeProbe 0x0A [0x80#8, 0x66#8] (fun s => { s with skip := true, skipCount := 1 }) (fun t => (t.pc, skipOf t)) =
    some (0x0B, (false, 1)) := by decide
/-- S4: no lookahead without the fresh flag. -/
theorem test_skip_no_lookahead_when_stale :
    seeProbe 0x0A [0x80#8, 0x66#8] (fun s => { s with skipCount := 1 }) (fun t => (t.pc, skipOf t)) =
    some (0x0B, (false, 0)) := by decide
/-- V1, slot 3. -/
theorem test_nop_commits :
    see [0x00#8] (fun s => { s with c := 1, cIn := 0, cDelay := true }) (fun t => (carry t, t.prevC)) =
    some ((0, 0, false), 1) := by decide
/-- P4, call 3: one slot of cost 2. -/
theorem test_nop2_overruns :
    (match hostRun 1 (put 0 [0x01#8]) with | .next (t, k) => some (t.pc, t.icount, k) | _ => none) = some (1, -1, 2) := by
  decide
/-- S6, first call. -/
theorem test_skip_requests : see [0x02#8] id (fun t => (t.pc, skipOf t)) = some (1, (true, 1)) := by decide
/-- S7, slot 2. -/
theorem test_skip_suppressed :
    see [0x02#8] (fun s => { s with skip := true, skipCount := 1 }) skipOf = some (false, 0) := by decide
/-- V9, slot 3: the staged carry is not seen. -/
theorem test_skc_sees_old_carry :
    see [0x03#8] (fun s => { s with cIn := 1, cDelay := true }) (fun t => (skipOf t, carry t)) =
    some ((false, 0), (1, 1, false)) := by decide
/-- V9, slot 4. -/
theorem test_skc_requests :
    see [0x03#8] (fun s => { s with c := 1, cIn := 1 }) (fun t => (skipOf t, t.prevC)) = some ((true, 1), 1) := by decide
/-- V1, slot 1. -/
theorem test_sc_stages : see [0x04#8] id carry = some (0, 1, true) := by decide
/-- V1, slot 2: the due commit of 1 and the new staging of 0. -/
theorem test_rc_after_sc : see [0x05#8] (fun s => { s with cIn := 1, cDelay := true }) carry = some (1, 0, true) := by decide
/-- V3, slot 1. -/
theorem test_sci_at_once : see [0x06#8] id carry = some (1, 1, false) := by decide
/-- V2, slot 2: the due commit is cancelled. -/
theorem test_rci_cancels : see [0x07#8] (fun s => { s with cIn := 1, cDelay := true }) carry = some (0, 0, false) := by decide
/-- P1, slot 7. -/
theorem test_ret_newer :
    see [0x08#8] (fun s => { s with stack0 := 0x12, stack1 := 0x22, sp := 2 }) (fun t => (t.pc, stk t)) =
    some (0x22, (0x12, 0x22, 1)) := by decide
/-- P1, slot 9: the stale pop. -/
theorem test_ret_stale :
    see [0x08#8] (fun s => { s with stack0 := 0x12, stack1 := 0x22, sp := 0 }) (fun t => (t.pc, stk t)) =
    some (0x12, (0x12, 0x22, 0)) := by decide
/-- P2, slot 12. -/
theorem test_retsk :
    see [0x09#8] (fun s => { s with stack0 := 0x0B, sp := 1 }) (fun t => (t.pc, t.sp, skipOf t, t.icount)) =
    some (0x0B, 0, (true, 1), -2) := by decide
/-- V6, slot 3. -/
theorem test_ld_committed_address :
    see [0x0A#8] (fun s => { s with data := [(0, 7), (1, 8), (2, 9)], ramAddr := 1, ramAddrIn := 2, ramDelay := true })
      (fun t => (t.a, ram t)) = some (8, (2, 2, false)) := by decide
/-- R252: the high four bits are dropped. -/
theorem test_ld_low_nibble : see [0x0A#8] (fun s => { s with data := [(0, 0xF5#8)] }) (·.a) = some 5 := by decide
/-- P3, slot 3. -/
theorem test_st_committed_address :
    see [0x0B#8] (fun s => { s with a := 9, ramAddrIn := 3, ramDelay := true }) (fun t => (t.data, ram t)) =
    some ([(0, 9)], (3, 3, false)) := by decide
/-- R253: all eight bits are written, the high four with 0. -/
theorem test_st_clears_high : see [0x0B#8] (fun s => { s with data := [(0, 0xF5#8)] }) (·.data) = some [] := by decide
/-- V5, slot 3. -/
theorem test_xab :
    see [0x0C#8] (fun s => { s with a := 7, prevA := 7, b := 5, ramAddrIn := 5, ramDelay := true })
      (fun t => ((t.a, t.prevA, t.prev2A), (t.b, t.prevB), ram t)) = some ((5, 7, 7), (7, 5), (5, 5, false)) := by decide
/-- V4, slot 4. -/
theorem test_lapp :
    see [0x0D#8] (fun s => { s with a := 3, prevA := 2, prev2A := 1 }) (fun t => (t.a, t.prevA, t.prev2A)) =
    some (2, 3, 2) := by decide
/-- P2, slot 5. -/
theorem test_skaz_nonzero : see [0x0E#8] (fun s => { s with a := 1 }) skipOf = some (false, 0) := by decide
/-- P2, slot 8. -/
theorem test_skaz_zero : see [0x0E#8] id skipOf = some (true, 1) := by decide
/-- V13, slot 4. -/
theorem test_adc_top :
    see [0x0F#8] (fun s => { s with a := 15, cIn := 1, cDelay := true, data := [(15, 0x0F#8)], ramAddr := 15, ramAddrIn := 15 })
      (fun t => (t.a, carry t)) = some (15, (1, 1, true)) := by decide
/-- P3, slot 9. -/
theorem test_adc_no_carry_out :
    see [0x0F#8] (fun s => { s with a := 3, c := 1, cIn := 1, data := [(0, 9), (3, 9)], ramAddr := 3, ramAddrIn := 3 })
      (fun t => (t.a, carry t)) = some (13, (1, 0, true)) := by decide
/-- V9, slot 1. -/
theorem test_lai : see [0x1F#8] id (·.a) = some 15 := by decide
/-- V6, slot 2. -/
theorem test_lb :
    see [0x22#8] (fun s => { s with b := 1, ramAddrIn := 1, ramDelay := true }) (fun t => (t.b, t.prevB, ram t)) =
    some (2, 1, (1, 2, true)) := by decide
/-- V7, slot 2. -/
theorem test_lbi :
    see [0x35#8] (fun s => { s with b := 1, ramAddrIn := 1, ramDelay := true }) (fun t => (t.b, t.prevB, ram t)) =
    some (5, 1, (5, 5, false)) := by decide
/-- V16, first entry. -/
theorem test_adi_carry_out : see [0x4A#8] (fun s => { s with a := 9 }) (fun t => (t.a, carry t)) = some (3, (0, 1, true)) := by
  decide
/-- V14, slot 2: a carry of 0 is staged too, and the old carry is no addend. -/
theorem test_adi_zero :
    see [0x40#8] (fun s => { s with c := 1, cIn := 1 }) (fun t => (t.a, carry t)) = some (0, (1, 0, true)) := by decide
/-- V12, slots 2 and 3. -/
theorem test_lar :
    see [0x50#8] (fun s => { s with ramAddrIn := 5, ramDelay := true }) (fun t => (t.a, ram t)) =
      some (0, (5, 5, false)) ∧
    see [0x50#8] (fun s => { s with ramAddr := 5, ramAddrIn := 5 }) (·.a) = some 5 := by decide
/-- V15, second byte's slot: `PcLoad` masks. -/
theorem test_jmp_second : see [0x47#8] (fun s => { s with op := 0x80#8 }) (fun t => (t.pc, t.icount)) = some (0x07, -1) := by
  decide
/-- P2, slot 15: the first byte's slot. -/
theorem test_jmp_first : see [0x80#8, 0x0D#8] id (fun t => (t.pc, t.op, t.icount)) = some (1, 0x80#8, -1) := by decide
/-- P1, slot 6: a third push discards the oldest entry. -/
theorem test_call_evicts :
    (match step { put 0x21 [0x30#8] with op := 0x81#8, stack0 := 0x02, stack1 := 0x12, sp := 2 } with
      | .next t => some (t.pc, stk t) | _ => none) = some (0x30, (0x12, 0x22, 2)) := by decide
/-- R263, corner case: a call whose second byte is at 0x3F pushes 0x00. -/
theorem test_call_at_top :
    (match step { put 0x3F [0x10#8] with op := 0x81#8, stack0 := 0x05 } with
      | .next t => some (t.pc, stk t) | _ => none) = some (0x10, (0x00, 0x00, 1)) := by decide

/-! ## The core's own operations. -/

/-- K1, rows 3 and 8. -/
theorem test_push :
    stk (push 0x15 { State.reset with stack0 := 0x05, stack1 := 0x0A, sp := 2 }) = (0x0A, 0x15, 2) ∧
    stk (push 0x47 { State.reset with stack0 := 0x0A, stack1 := 0x15, sp := 0 }) = (0x07, 0x15, 1) := by decide
/-- K1, rows 4 and 6. -/
theorem test_pop :
    popped { State.reset with stack0 := 0x0A, stack1 := 0x15, sp := 2 } = 0x15 ∧
    popped { State.reset with stack0 := 0x0A, stack1 := 0x15, sp := 0 } = 0x0A := by decide
/-- S8, slot 2: `SKIP_COST = 2`. -/
theorem test_skip_cost :
    see [0x80#8] (fun s => { s with cfg := { s.cfg with skipCost := 2 }, skip := true, skipCount := 1 })
      (fun t => (skipOf t, t.icount)) = some ((false, 1), -2) := by decide
/-- The instruction placed for the next step is the one it runs. -/
theorem test_withFetchWord :
    (match step (State.reset.withFetchWord 8 0x1B) with | .next t => some t.a | _ => none) = some 11 := by decide

/-! ## Witnesses: the hypotheses of each statement, met together, each clause at a boundary of its range. -/

/-- T0 at the last address with something staged in both latches: the invariant holds there too. -/
def busy : State :=
  { put 0x3F [0x0B#8, 0x00#8] with
    a := 9, cIn := 1, cDelay := true, ramAddr := 15, ramAddrIn := 0, ramDelay := true, stack0 := 0x3F, sp := 1 }

theorem witness_ResetFieldsAreZero :
    (∃ r, r = State.reset) ∧ ∃ r, r = resetState busy := ⟨⟨_, rfl⟩, _, rfl⟩
/-- The bounds of the images' spaces, with a byte at each last address. -/
theorem witness_ResetMeetsInvariant :
    Memory.wf [(0x3F, 0x55#8)] = true ∧ Memory.within Config.t0.pmask [(0x3F, 0x55#8)] = true ∧
    Memory.wf [(0x0F, 0x55#8)] = true ∧ Memory.within Config.t0.dmask [(0x0F, 0x55#8)] = true ∧
    (∃ s, construct Config.t0 [(0x3F, 0x55#8)] [(0x0F, 0x55#8)] = .next s) ∧
    Memory.wf busy.prog = true ∧ Memory.within busy.cfg.pmask busy.prog = true ∧
    Memory.wf busy.data = true ∧ Memory.within busy.cfg.dmask busy.data = true :=
  ⟨by decide, by decide, by decide, by decide, ⟨_, rfl⟩, by decide, by decide, by decide, by decide⟩
theorem witness_HostResetKeepsMemory : busy.icount ≤ 0 := by decide
theorem witness_SecondResetChangesNothing :
    (∃ t, State.reset.cfg.variant = .t0 ∧ hostReset State.reset = .next t) ∧
    (∃ s t : State, s.cfg.variant = .probe ∧ hostReset s = .next t) :=
  ⟨⟨_, rfl, rfl⟩, ⟨{ busy with cfg := { Config.t0 with variant := .probe } }, _, rfl, rfl⟩⟩
theorem witness_HostCallsRefusedDuringRun : 0 < ({ busy with icount := 1 } : State).icount := by decide
theorem witness_ConstructionBounds :
    (⟨0, 4, false, 1, .t0⟩ : Config).pw < 1 ∧ (⟨6, 0, false, 1, .t0⟩ : Config).dw < 1 ∧
    (⟨6, 4, false, 0, .t0⟩ : Config).skipCost < 1 ∧
    (1 ≤ (⟨1, 1, false, 1, .t0⟩ : Config).pw ∧ 1 ≤ (⟨1, 1, false, 1, .t0⟩ : Config).dw ∧
      1 ≤ (⟨1, 1, false, 1, .t0⟩ : Config).skipCost) := by decide
theorem witness_EverySlotKeepsInvariant : busy.Inv ∧ ∃ t, step busy = .next t := ⟨by decide, _, rfl⟩
theorem witness_NoSlotFaults : busy.Inv := by decide
theorem witness_StepRunsDecodedInstruction :
    (busy.skipCount = 0 ∧ busy.pc ≤ busy.cfg.pmask ∧ opIsPrefix busy.cfg.variant busy.op = false ∧
      decode busy.cfg.variant [readByte busy.prog busy.pc, readByte busy.prog ((busy.pc + 1) &&& busy.cfg.pmask)] =
        .ok (.st, [0x00#8])) ∧
    (∃ s : State, s.skipCount = 0 ∧ s.pc ≤ s.cfg.pmask ∧ opIsPrefix s.cfg.variant s.op = true ∧
      decode s.cfg.variant [s.op, readByte s.prog s.pc] = .ok (.jmp 0x7F#7, [])) :=
  ⟨⟨rfl, by decide, rfl, rfl⟩, ⟨{ put 0x3F [0x7F#8] with op := 0x80#8 }, rfl, by decide, rfl, rfl⟩⟩
theorem witness_DecodeOfEncode :
    (Instr.jmp 0x7F#7).wellFormed .t0 = true ∧ (Instr.prefix2 0x80#8 0x80#8).wellFormed .t0 = true ∧
    (Instr.byte 0xFF#8).wellFormed .probe = true := by decide
theorem witness_EncodeOfDecode : decode .t0 [0x80#8, 0x7F#8, 0x00#8] = .ok (.jmp 0x7F#7, [0x00#8]) := rfl
theorem witness_DecodeRejectsOnlyMissingBytes :
    decode .probe [] = .error .noByte ∧ opIsPrefix .t0 0x80#8 = true := ⟨rfl, by decide⟩
theorem witness_SkipInstructionResults :
    ({ busy with c := 1 } : State).c = 1#1 ∧ busy.c ≠ 1#1 ∧ State.reset.a = 0#4 ∧
    ({ busy with a := 1 } : State).a ≠ 0#4 ∧ ({ busy with a := 15 } : State).a ≠ 0#4 := by decide
theorem witness_ReturnResults :
    ({ busy with sp := 2 } : State).sp = 2 ∧ State.reset.sp = 0 ∧ busy.sp = 1 := by decide
theorem witness_LoadResult : busy.ramAddr ≤ busy.cfg.dmask ∧ busy.ramAddr = 15 := by decide
theorem witness_StoreResult : dataAddress busy = some 15 ∧ Memory.wf busy.data = true := by decide
theorem witness_JumpResults :
    ({ busy with op := 0x81#8 } : State).op ≠ 0x80#8 ∧ ({ busy with op := 0x80#8 } : State).op = 0x80#8 := by decide
theorem witness_CallResults :
    ({ busy with op := 0x80#8 } : State).op ≠ 0x81#8 ∧
    (({ busy with op := 0x81#8, sp := 0 } : State).op = 0x81#8 ∧ ({ busy with op := 0x81#8, sp := 0 } : State).sp = 0) ∧
    (({ busy with op := 0x81#8 } : State).op = 0x81#8 ∧ ({ busy with op := 0x81#8 } : State).sp = 1) ∧
    (({ busy with op := 0x81#8, sp := 2 } : State).op = 0x81#8 ∧ ({ busy with op := 0x81#8, sp := 2 } : State).sp = 2) := by
  decide
theorem witness_ProbeRunsEveryByte :
    ∃ s : State, s.cfg.variant = .probe ∧ s.op ≠ 0x81#8 ∧ s.op = 0x80#8 :=
  ⟨{ busy with cfg := { Config.t0 with variant := .probe }, op := 0x80#8 }, by decide⟩
theorem witness_GenericByteIsItsT0Row :
    busy.cfg.variant = .t0 ∧ t0IsPrefix busy.op = false ∧ decode .t0 [0x50#8] = .ok (.lar, []) ∧
    decode .t0 [0x00#8] = .ok (.nop, []) := ⟨rfl, rfl, rfl, rfl⟩
theorem witness_T0PrefixPairSlots :
    busy.cfg.variant = .t0 ∧ t0IsPrefix 0x80#8 = true ∧ t0IsPrefix 0x81#8 = true ∧ t0IsPrefix busy.op = false ∧
    ({ busy with op := 0x81#8 } : State).op = 0x81#8 ∧ 0x80#8 ≤ 0x80#8 ∧ 0x80#8 ≤ 0xFF#8 := by decide
/-- A state with a skip pending before a byte, at the last address. -/
def pending (fresh : Bool) (n : Fin 3) (byte : Byte) : State :=
  { put 0x3F [byte, 0x80#8] with skip := fresh, skipCount := n }

/-- A byte at the last address, after a given byte. -/
def after (before byte : Byte) : State := { put 0x3F [byte] with op := before }

theorem witness_T0RefusesExactlyUnmappedBytes :
    (∀ b ∈ [0x51#8, 0x7F#8, 0x82#8, 0xFF#8],
      (after 0x00#8 b).Inv ∧ refusal (after 0x00#8 b) = some (.unmappedByte b)) ∧
    (∀ b ∈ [0x80#8, 0xFF#8], (after 0x80#8 b).Inv ∧ refusal (after 0x80#8 b) = some (.unmappedByte b)) ∧
    (after 0x81#8 0x80#8).Inv ∧ refusal (after 0x81#8 0x80#8) = some (.unmappedByte 0x80#8) := by
  refine ⟨?_, ?_, ?_, ?_⟩ <;> decide
theorem witness_T0WellFormedByteRuns :
    ((pending true 1 0xFF#8).Inv ∧ (pending true 1 0xFF#8).skipCount ≠ 0) ∧
    (∀ b ∈ [0x00#8, 0x50#8, 0x80#8, 0x81#8], (after 0x00#8 b).Inv ∧ t0IsPrefix (after 0x00#8 b).op = false ∧
      t0HasRule (readByte (after 0x00#8 b).prog 0x3F) = true) ∧
    (∀ b ∈ [0x00#8, 0x7F#8], (after 0x80#8 b).Inv ∧ t0IsPrefix (after 0x80#8 b).op = true ∧
      readByte (after 0x80#8 b).prog 0x3F < 0x80#8) := by
  refine ⟨?_, ?_, ?_⟩ <;> decide

theorem witness_SuppressedSlotResult :
    (pending true 1 0x80#8).pc ≤ (pending true 1 0x80#8).cfg.pmask ∧ (pending true 1 0x80#8).skipCount ≠ 0 ∧
    opIsPrefix .t0 (readByte (pending true 1 0x80#8).prog (pending true 1 0x80#8).pc) = true ∧
    (pending false 2 0x80#8).skipCount ≠ 0 ∧ (pending false 1 0x80#8).skipCount ≠ 0 ∧
    (pending true 1 0x82#8).skipCount ≠ 0 := by decide
theorem witness_SkipTransitionTable :
    (∃ t, busy.Inv ∧ busy.skipCount = 0 ∧ step busy = .next t) ∧
    (∃ t, (pending true 1 0x82#8).Inv ∧ opIsPrefix .t0 0x82#8 = false ∧ step (pending true 1 0x82#8) = .next t) ∧
    (∃ t, (pending true 1 0x80#8).Inv ∧ opIsPrefix .t0 0x80#8 = true ∧ step (pending true 1 0x80#8) = .next t) ∧
    (∃ t, (pending false 1 0x80#8).Inv ∧ step (pending false 1 0x80#8) = .next t) :=
  ⟨⟨_, by decide, rfl, rfl⟩, ⟨_, by decide, rfl, rfl⟩, ⟨_, by decide, rfl, rfl⟩, ⟨_, by decide, rfl⟩⟩
theorem witness_SkipSwallowsWholeInstruction :
    ((pending true 1 0x82#8).Inv ∧ (pending true 1 0x82#8).skip = true ∧
      opIsPrefix .t0 (readByte (pending true 1 0x82#8).prog 0x3F) = false) ∧
    ((pending true 1 0x81#8).Inv ∧ (pending true 1 0x81#8).skip = true ∧
      opIsPrefix .t0 (readByte (pending true 1 0x81#8).prog 0x3F) = true) := by decide
theorem witness_StackBehaviourTable :
    State.reset.sp = 0 ∧ busy.sp = 1 ∧ ({ busy with sp := 2 } : State).sp = 2 := by decide
theorem witness_ThirdPushEvictsAndStalePopRepeats : ({ busy with sp := 2 } : State).sp = 2 := by decide
theorem witness_CommittedLatchesMoveOnlyByCommit :
    t0Row .st = true ∧ Instr.st ≠ .sci ∧ Instr.st ≠ .rci ∧ (∀ n, Instr.st ≠ .lbi n) ∧ (∃ t, exec .st busy = .next t) ∧
    t0Row .sci = true ∧ (∃ t, exec .sci busy = .next t) :=
  ⟨rfl, by decide, by decide, by decide, ⟨_, rfl⟩, rfl, _, rfl⟩
theorem witness_DelayedCarryLandsOneSlotLate :
    (∃ s1 s2, (put 0x3F [0x04#8, 0x03#8]).Inv ∧ (put 0x3F [0x04#8, 0x03#8]).cfg.variant = .t0 ∧
      exec .sc (put 0x3F [0x04#8, 0x03#8]) = .next s1 ∧ step s1 = .next s2 ∧
      readByte s1.prog s1.pc ≠ 0x06#8 ∧ readByte s1.prog s1.pc ≠ 0x07#8) ∧
    (∃ s1 s2, (pending true 1 0x82#8).Inv ∧ (pending true 1 0x82#8).cDelay = false ∧
      exec .sc (pending true 1 0x82#8) = .next s1 ∧ step s1 = .next s2 ∧ s1.skipCount ≠ 0) :=
  ⟨⟨_, _, by decide, rfl, rfl, rfl, by decide, by decide⟩, ⟨_, _, by decide, rfl, rfl, rfl, by decide⟩⟩
/-- For its second part: a suppressed slot, an executed byte of T0 in each position, and a commit left due. -/
theorem witness_StagedValueLands :
    (∃ t, (pending true 1 0x06#8).Inv ∧ step (pending true 1 0x06#8) = .next t ∧ (pending true 1 0x06#8).skipCount ≠ 0) ∧
    (∃ t, busy.Inv ∧ step busy = .next t ∧ readByte busy.prog busy.pc = 0x0B#8) ∧
    (∃ t, (after 0x80#8 0x07#8).Inv ∧ step (after 0x80#8 0x07#8) = .next t ∧ t0IsPrefix (after 0x80#8 0x07#8).op = true) ∧
    (∃ t, (after 0x00#8 0x2F#8).Inv ∧ step (after 0x00#8 0x2F#8) = .next t) ∧
    (∃ t, (after 0x00#8 0x40#8).Inv ∧ step (after 0x00#8 0x40#8) = .next t) ∧
    (∃ u k, perform (contractOf .t0).executeOne (beginSlot 0x0B#8 busy) = .next (u, k) ∧ u.cDue = true ∧ u.rDue = true) :=
  ⟨⟨_, by decide, rfl, by decide⟩, ⟨_, by decide, rfl, by decide⟩, ⟨_, by decide, rfl, by decide⟩,
    ⟨_, by decide, rfl⟩, ⟨_, by decide, rfl⟩, _, _, rfl, rfl, rfl⟩
theorem witness_BackToBackDelayedWrites :
    State.reset.cDelay = false ∧ State.reset.ramDelay = false ∧
    (∃ s1 s2 s3, exec .sc State.reset = .next s1 ∧ exec .rc s1 = .next s2 ∧ exec .nop s2 = .next s3) ∧
    (∃ s1 s2 s3, exec (.lb 1#4) State.reset = .next s1 ∧ exec (.lb 15#4) s1 = .next s2 ∧ exec .nop s2 = .next s3) :=
  ⟨rfl, rfl, ⟨_, _, _, rfl, rfl, rfl⟩, ⟨_, _, _, rfl, rfl, rfl⟩⟩
theorem witness_ImmediateWriteDiscardsStaged :
    (∃ s1 s2, exec .sc busy = .next s1 ∧ exec .rci s1 = .next s2) ∧
    (∃ s1 s2, exec (.lb 15#4) busy = .next s1 ∧ exec (.lbi 0#4) s1 = .next s2) :=
  ⟨⟨_, _, rfl, rfl⟩, ⟨_, _, rfl, rfl⟩⟩
theorem witness_HistoriesShiftEverySlot :
    (∃ t, step busy = .next t) ∧ ∃ t, step (pending true 1 0x80#8) = .next t := ⟨⟨_, rfl⟩, _, rfl⟩
theorem witness_ConfigurationIsFixed : (∃ t, slots 0 busy = .next t) ∧ ∃ t, slots 1 busy = .next t := ⟨⟨_, rfl⟩, _, rfl⟩
theorem witness_OnlyFlowInstructionsLoadThePc :
    t0Row .lar = true ∧ Instr.lar ≠ .ret ∧ Instr.lar ≠ .retsk ∧ (∀ aa, Instr.lar ≠ .jmp aa) ∧
    (∀ aa, Instr.lar ≠ .call aa) ∧ busy.pc = 0x3F ∧ ∃ t, exec .lar busy = .next t :=
  ⟨rfl, by decide, by decide, by decide, by decide, rfl, _, rfl⟩
theorem witness_T0Frame :
    t0Row .nop = true ∧ Instr.nop ≠ .st ∧ Instr.nop ≠ .ret ∧ Instr.nop ≠ .retsk ∧ Instr.nop ≠ .skip ∧
    Instr.nop ≠ .skc ∧ Instr.nop ≠ .skaz ∧ Instr.nop ≠ .xab ∧ Instr.nop ≠ .ld ∧ Instr.nop ≠ .lapp ∧
    Instr.nop ≠ .adc ∧ Instr.nop ≠ .lar ∧ (∀ aa, Instr.nop ≠ .call aa) ∧ (∀ n, Instr.nop ≠ .lb n) ∧
    (∀ n, Instr.nop ≠ .lbi n) ∧ (∀ n, Instr.nop ≠ .lai n) ∧ (∀ n, Instr.nop ≠ .adi n) ∧
    ∃ t, exec .nop busy = .next t := by
  refine ⟨rfl, ?_, ?_, ?_, ?_, ?_, ?_, ?_, ?_, ?_, ?_, ?_, ?_, ?_, ?_, ?_, ?_, _, rfl⟩ <;> decide
theorem witness_T0CostTable :
    t0Row .retsk = true ∧ (∃ t, exec .retsk busy = .next t) ∧ t0Row .st = true ∧ ∃ t, exec .st busy = .next t :=
  ⟨rfl, ⟨_, rfl⟩, rfl, _, rfl⟩
theorem witness_OneProgramReadPerSlot :
    busy.cfg.variant = .t0 ∧ readByte [(0, 0x55#8), (0x3F, 0x0B#8)] busy.pc = readByte busy.prog busy.pc := by decide
theorem witness_SagHasNoInfluence : busy.cfg.variant = .t0 := rfl
theorem witness_RunWithoutBudgetDoesNothing : busy.icount ≤ 0 ∧ (0 : Int) ≤ 0 ∧ (-5 : Int) ≤ 0 := by decide
/-- For RunOverrunBounds and RunSlotCount. -/
theorem witness_RunBounds :
    1 ≤ busy.cfg.skipCost ∧ (0 : Int) < 1 ∧ (∃ t, hostRun 1 busy = .next (t, 1)) ∧
    ∃ t, hostRun 1 (put 0 [0x01#8]) = .next (t, 2) := ⟨by decide, by decide, ⟨_, rfl⟩, _, rfl⟩
theorem witness_RunsComposeAsSlots :
    ∃ t u, hostRun 1 State.reset = .next (t, 1) ∧ hostRun 0 t = .next (u, 0) := ⟨_, _, rfl, rfl⟩
theorem witness_JumpTakesTwoSlots :
    (put 0x3F [0x80#8, 0x7F#8]).Inv ∧ (put 0x3F [0x80#8, 0x7F#8]).skipCount = 0 ∧
    t0IsPrefix (put 0x3F [0x80#8, 0x7F#8]).op = false ∧ readByte (put 0x3F [0x80#8, 0x7F#8]).prog 0x3F = 0x80#8 ∧
    readByte (put 0x3F [0x80#8, 0x7F#8]).prog ((0x3F + 1) &&& 0x3F) = BitVec.ofNat 8 (0x7F#7).toNat := by decide
theorem witness_CallThenReturnComesBack :
    (put 0x3F [0x81#8, 0x01#8, 0x08#8]).Inv ∧ (put 0x3F [0x81#8, 0x01#8, 0x08#8]).sp ≠ 2 ∧
    ({ put 0x3F [0x81#8, 0x01#8, 0x08#8] with sp := 1 } : State).sp ≠ 2 ∧
    readByte (put 0x3F [0x81#8, 0x01#8, 0x08#8]).prog 0x3F = 0x81#8 ∧
    readByte (put 0x3F [0x81#8, 0x01#8, 0x08#8]).prog ((0x3F + 1) &&& 0x3F) = BitVec.ofNat 8 (0x01#7).toNat ∧
    readByte (put 0x3F [0x81#8, 0x01#8, 0x08#8]).prog ((0x01#7).toNat &&& 0x3F) = 0x08#8 := by decide
theorem witness_DataPortPrimitives :
    (beginSlot 0x0A#8 busy).st.ramAddr ≤ (beginSlot 0x0A#8 busy).st.cfg.dmask ∧
    (beginSlot 0x0A#8 { busy with ramAddr := 16 }).st.cfg.dmask < (beginSlot 0x0A#8 { busy with ramAddr := 16 }).st.ramAddr := by
  decide
theorem witness_ProgramWriteSeenByNextFetch :
    Memory.wf busy.prog = true ∧ busy.pc ≤ busy.cfg.pmask ∧ 0x7F &&& busy.cfg.pmask = busy.pc ∧
    0x3E &&& busy.cfg.pmask ≠ busy.pc := by decide
theorem witness_SegmentLookupNeedsThePort :
    ({ busy with cfg := { Config.t0 with hasSeg := true } } : State).cfg.hasSeg = true ∧ busy.cfg.hasSeg = false := by decide

/-! ## A well-formed program of two bytes, `00: 80 00` (`JMP 00`, R262), for the statements about whole runs. -/

/-- The boundaries of that program's run. -/
def InLoop (second : Bool) (t : State) : Prop :=
  t.cfg = Config.t0 ∧ t.prog = [(0, 0x80#8)] ∧ t.skipCount = 0 ∧
  (second = false ∧ t.pc = 0 ∧ t0IsPrefix t.op = false ∨ second = true ∧ t.pc = 1 ∧ t.op = 0x80#8)

theorem inLoop_first {t : State} (h : InLoop false t) : step t = .next (plainSlot 0x80#8 1 t) := by
  obtain ⟨hc, hp, h0, ⟨-, hpc, ho⟩ | ⟨h1, -⟩⟩ := h
  · have hne : t.op ≠ 0x80#8 := by rintro e; rw [e] at ho; cases ho
    have hb : fetchByte t = some 0x80#8 := by simp [fetchByte, fetchAddress, hpc, hp, readByte]
    have hi : instrAt 0x80#8 t = .jmp 0#7 := by
      simp [instrAt, instrBytes, opIsPrefix, hc, Config.t0, ho, byteAfter, hp, hpc, maskP, decodePair]
      decide
    rw [← endSlot_beginSlot, step, runSlot, hb]
    simp [h0, hi, exec, execJmp, instrSlot, slotByte, encode, withAA, executedSlot, actJmp, perform, hne, costCycles]
  · cases h1

theorem inLoop_second {t : State} (h : InLoop true t) :
    step t = .next { plainSlot 0x00#8 1 t with pc := 0 } := by
  obtain ⟨hc, hp, h0, ⟨h1, -⟩ | ⟨-, hpc, ho⟩⟩ := h
  · cases h1
  · have hb : fetchByte t = some 0x00#8 := by
      simp [fetchByte, fetchAddress, hpc, hp, hc, readByte, unlisted, Config.pmask, Config.t0, mask]
    have hi : instrAt 0x00#8 t = .jmp 0#7 := by
      rw [instrAt, instrBytes, hc, ho, if_pos (by decide)]
      decide
    rw [step, runSlot, hb]
    cases hr : t.ramDelay <;> cases hd : t.cDelay <;>
      simp [h0, hi, exec, execJmp, instrSlot, slotByte, encode, withAA, executedSlot, actJmp, perform, ho, costCycles,
        Slot.with, pcLoad, endSlot, charge, commit, commitCarry, commitRamAddr, plainSlot, maskP, beginSlot, age, advance,
        snapshot, hr, hd]

theorem inLoop_reached {t : State} {second : Bool} (h : Reached (put 0 [0x80#8]) t second) : InLoop second t := by
  induction h with
  | start => exact ⟨rfl, rfl, rfl, .inl ⟨rfl, rfl, by decide⟩⟩
  | @slot s t second _ hs ih =>
    cases second with
    | false =>
      rw [inLoop_first ih] at hs
      cases hs
      obtain ⟨hc, hp, h0, ⟨-, hpc, ho⟩ | ⟨h1, -⟩⟩ := ih
      · have hf : secondFollows false s = true := by
          rw [secondFollows_of_first h0, nextByte, hp, hpc, hc]; decide
        rw [hf]
        refine ⟨hc, hp, h0, .inr ⟨rfl, ?_, rfl⟩⟩
        simp [plainSlot, hpc, hc, Config.pmask, Config.t0, mask]
      · cases h1
    | true =>
      rw [inLoop_second ih] at hs
      cases hs
      rw [secondFollows_of_second]
      exact ⟨ih.1, ih.2.1, ih.2.2.1, .inl ⟨rfl, rfl, rfl⟩⟩

theorem witness_T0WellFormedRun :
    (put 0 [0x80#8]).Inv ∧ (put 0 [0x80#8]).cfg.variant = .t0 ∧ (put 0 [0x80#8]).skipCount = 0 ∧
    t0IsPrefix (put 0 [0x80#8]).op = false ∧ t0WellFormedRun (put 0 [0x80#8]) := by
  refine ⟨by decide, rfl, rfl, by decide, fun t second h => ?_⟩
  obtain ⟨hc, hp, h0, ⟨rfl, hpc, -⟩ | ⟨rfl, hpc, -⟩⟩ := inLoop_reached h
  · simp [inSecondPosition, h0, nextByte, hp, hpc, readByte]
    decide
  · simp [inSecondPosition, nextByte, hp, hpc, readByte]
    decide

theorem inLoop_agrees : (put 0 [0x80#8]).Agrees := by
  intro t second h _
  obtain ⟨hc, hp, h0, ⟨rfl, hpc, ho⟩ | ⟨rfl, hpc, ho⟩⟩ := inLoop_reached h
  · have hne : t.op ≠ 0x80#8 := by rintro e; rw [e] at ho; cases ho
    have hb : nextByte t = 0x80#8 := by simp [nextByte, hp, hpc, readByte]
    rw [hc, hb]
    change perform (t0Action (if t0IsPrefix t.op then t0Pair t.op 0x80#8 else t0Pair 0x80#8 0x00#8)) _ = _
    rw [ho, if_neg (by decide), t0Pair_jmp]
    simp [twoByte, t0Action, actJmp, perform, hne, contractOf, t0Contract, t0ByPosition, Config.t0]
    rfl
  · have hb : nextByte t = 0x00#8 := by simp [nextByte, hp, hpc, readByte, unlisted]
    rw [hc, hb]
    change perform (t0Action (if t0IsPrefix t.op then t0Pair t.op 0x00#8 else t0Pair 0x00#8 0x00#8)) _ =
      perform (if t0IsPrefix t.op then t0Action (t0Pair t.op 0x00#8) else .unmapped) _
    rw [ho]
    rfl

/-- A boundary of that run before an executed first byte of class P. -/
theorem witness_AgreeingVariantPairsBytes :
    (put 0 [0x80#8]).Inv ∧ (put 0 [0x80#8]).Agrees ∧
    ∃ u, Reached (put 0 [0x80#8]) (put 0 [0x80#8]) false ∧ step (put 0 [0x80#8]) = .next u ∧
      (put 0 [0x80#8]).skipCount = 0 ∧ u.skipCount = 0 ∧ opIsPrefix .t0 (readByte (put 0 [0x80#8]).prog 0) = true :=
  ⟨by decide, inLoop_agrees, _, .start, rfl, rfl, rfl, by decide⟩

/-- The next boundary of that run, before an executed second byte: `second = true`. -/
theorem witness_AgreeingVariantAtSecondByte :
    ∃ t u, (put 0 [0x80#8]).Inv ∧ (put 0 [0x80#8]).Agrees ∧ Reached (put 0 [0x80#8]) t true ∧
      step t = .next u ∧ t.skipCount = 0 ∧ u.skipCount = 0 :=
  ⟨plainSlot 0x80#8 1 (put 0 [0x80#8]), _, by decide, inLoop_agrees,
    .slot (s := put 0 [0x80#8]) (second := false) .start rfl, rfl, rfl, rfl⟩

/-- A slot of the probe contract leaves the configuration. -/
theorem probe_cfg {s t : State} (hv : s.cfg.variant = .probe) (h : step s = .next t) : t.cfg = s.cfg := by
  unfold step runSlot at h
  split at h
  · cases h
  · split_ifs at h
    · rw [instrAt, hv] at h
      simp only [decodePair, exec_genericPair, hv] at h
      generalize (if opIsPrefix .probe _ then _ else _ : Byte) = b at h
      cases h
      rw [endSlot_beginSlot]
      rfl
    · cases h
      cases hc : s.cDelay <;> cases hr : s.ramDelay <;>
        simp [suppressedSlot, endSlot, charge, commit, commitCarry, commitRamAddr, beginSlot, age, advance, snapshot,
          suppress, Slot.with, hc, hr]

/-- The probe machine with a skip pending before a byte that is no prefix byte. -/
def probePending : State := { pending true 1 0x82#8 with cfg := { Config.t0 with variant := .probe } }

/-- The clause for the slot after a swallowed instruction. -/
theorem witness_AgreeingVariantAfterSkip :
    probePending.Inv ∧ probePending.Agrees ∧
    ∃ u, Reached probePending probePending false ∧ step probePending = .next u ∧
      probePending.skipCount ≠ 0 ∧ u.skipCount = 0 := by
  refine ⟨by decide, fun t second h => ?_, _, .start, rfl, by decide, by decide⟩
  have hv : t.cfg.variant = .probe := by
    induction h with
    | start => rfl
    | slot _ hs ih => rw [probe_cfg ih hs]; exact ih
  intro _
  rw [hv]
  rfl

end Sys2Proof.Tests
end

section
/-! The configuration is fixed (00_scope.md R8). What a completed step can be and how runs of slots carry a property are
said once, in general; the configuration is then followed through the two kinds of slot. -/

namespace Sys2Proof.Machine

/-- The slot of every instruction is an executed slot: its byte is handed to some `execute_one` call (R117). -/
theorem exec_eq_executedSlot (i : Instr) (s : State) : ∃ x, exec i s = executedSlot (slotByte i s.op) x s := by
  cases i with
  | byte opcode => exact ⟨(contractOf s.cfg.variant).executeOne, rfl⟩
  | prefix2 first second => exact ⟨(contractOf s.cfg.variant).executeOne, rfl⟩
  | _ => exact ⟨_, exec_t0Row _ s rfl⟩

/-- A completed executed slot is phases S1 to S3, a call that completes, and phases S5 and S6 (R112). -/
theorem executedSlot_next_iff {byte : Byte} {x : Action} {s t : State} :
    executedSlot byte x s = .next t ↔
      ∃ u k, perform x (beginSlot byte s) = .next (u, k) ∧ endSlot (costCycles k) u = t := by
  unfold executedSlot
  cases perform x (beginSlot byte s) with
  | next r => simp [Prod.ext_iff]
  | fault r => simp
  | refused r => simp

/-- A completed step fetched a byte and is an executed slot or a suppressed one, as `skip_count` has it (R116). -/
theorem step_next_iff {s t : State} :
    step s = .next t ↔
      ∃ byte, fetchByte s = some byte ∧
        (s.skipCount = 0 ∧ exec (instrAt byte s) s = .next t ∨
          s.skipCount ≠ 0 ∧ suppressedSlot byte s = t) := by
  unfold step runSlot
  cases fetchByte s with
  | none => simp
  | some byte => by_cases h : s.skipCount = 0 <;> simp [h]

theorem slots_succ_next_iff {k : Nat} {s t : State} :
    slots (k + 1) s = .next t ↔ ∃ u, step s = .next u ∧ slots k u = .next t := by
  simp only [slots]
  cases step s <;> simp

/-- What every step keeps, every completed run of slots keeps. -/
theorem slots_keep {P : State → Prop} (hstep : ∀ s t, P s → step s = .next t → P t) {k : Nat} {s t : State}
    (hs : P s) (h : slots k s = .next t) : P t := by
  induction k generalizing s with
  | zero => cases h; exact hs
  | succ k ih =>
    obtain ⟨u, hu, hrest⟩ := slots_succ_next_iff.mp h
    exact ih (hstep s u hs hu) hrest

@[simp] theorem beginSlot_cfg (byte : Byte) (s : State) : (beginSlot byte s).st.cfg = s.cfg := by simp

@[simp] theorem endSlot_cfg (n : Int) (t : Slot) : (endSlot n t).cfg = t.st.cfg := by simp [endSlot, commit]

@[simp] theorem suppressedSlot_cfg (byte : Byte) (s : State) : (suppressedSlot byte s).cfg = s.cfg := by
  simp [suppressedSlot]

/-- Whatever the call: no access of `execute_one` reaches the configuration (R214). -/
theorem executedSlot_cfg {byte : Byte} {x : Action} {s t : State} (h : executedSlot byte x s = .next t) :
    t.cfg = s.cfg := by
  obtain ⟨u, k, hperform, rfl⟩ := executedSlot_next_iff.mp h
  obtain ⟨hcfg, -⟩ := perform_untouched hperform
  calc (endSlot (costCycles k) u).cfg = u.st.cfg := endSlot_cfg _ _
    _ = (beginSlot byte s).st.cfg := hcfg
    _ = s.cfg := beginSlot_cfg byte s

theorem exec_cfg {i : Instr} {s t : State} (h : exec i s = .next t) : t.cfg = s.cfg := by
  obtain ⟨x, hslot⟩ := exec_eq_executedSlot i s
  exact executedSlot_cfg (hslot ▸ h)

theorem step_cfg {s t : State} (h : step s = .next t) : t.cfg = s.cfg := by
  obtain ⟨byte, -, ⟨-, hexec⟩ | ⟨-, rfl⟩⟩ := step_next_iff.mp h
  · exact exec_cfg hexec
  · exact suppressedSlot_cfg byte s

/-- Settles O41: every step keeps the configuration the run began with, so every run of slots does. -/
theorem configurationIsFixed : Obligations.ConfigurationIsFixed := by
  intro k s t h
  exact slots_keep (P := fun u => u.cfg = s.cfg) (fun _ _ hu hstep => (step_cfg hstep).trans hu) rfl h

end Sys2Proof.Machine
end

section
/-! The machine at reset (10_state.md R36, R39; 70_reset_and_hazards.md R310, R312). What `construct` answers and what
a pop of an empty stack returns are said once; the reset state meets the invariant behind any memories that do. -/

namespace Sys2Proof.Machine

/-- With an empty stack a pop returns the stale older entry (R163). -/
theorem popped_of_empty {s : State} (h : s.sp = 0) : popped s = s.stack0 := by
  simp [popped, h, countDown]

/-- A construction that succeeds is the implicit reset behind the given images (R312, R315). -/
theorem construct_next_iff {g : Config} {p d : Memory} {s : State} :
    construct g p d = .next s ↔
      g.wf = true ∧ resetState { State.reset with cfg := g, prog := p, data := d } = s := by
  unfold construct
  split_ifs with h <;> simp [h]

/-- `reset()` leaves every address 0 and nothing staged or pending, so only the memories are left to ask about. -/
theorem resetState_inv {s : State} (hprog : Memory.wf s.prog = true)
    (hprogIn : Memory.within s.cfg.pmask s.prog = true) (hdata : Memory.wf s.data = true)
    (hdataIn : Memory.within s.cfg.dmask s.data = true) : (resetState s).Inv := by
  have hp : 0 ≤ s.cfg.pmask := Nat.zero_le _
  have hd : 0 ≤ s.cfg.dmask := Nat.zero_le _
  exact ⟨⟨hp, hp, hp, hp⟩, ⟨hd, hd⟩, ⟨fun _ => rfl, fun _ => rfl⟩, ⟨nofun, (by decide : (0 : Fin 3) ≠ 2)⟩, ⟨hprog, hprogIn⟩,
    ⟨hdata, hdataIn⟩⟩

/-- Settles O1: both states hold the zeros of R39 field by field, and the pop is that of an empty stack. -/
theorem resetFieldsAreZero : Obligations.ResetFieldsAreZero := by
  rintro s r (rfl | rfl)
  · simp [State.reset, resetState, popped_of_empty]
  · simp [State.reset, resetState, popped_of_empty]

/-- Settles O6: each of the three states is one that `reset()` leaves. -/
theorem resetMeetsInvariant : Obligations.ResetMeetsInvariant := by
  refine ⟨?first, ?constructed, fun s => resetState_inv⟩
  case first => exact resetState_inv (s := State.reset) rfl rfl rfl rfl
  case constructed =>
    intro g p d s hprog hprogIn hdata hdataIn h
    obtain ⟨-, rfl⟩ := construct_next_iff.mp h
    exact resetState_inv hprog hprogIn hdata hdataIn

end Sys2Proof.Machine
end

section
/-! The invariant of 10_state.md R36: the slot of any instruction is an executed slot, and both kinds of slot keep it. -/

namespace Sys2Proof.Machine

theorem exec_inv {i : Instr} {s t : State} (hinv : s.Inv) (h : exec i s = .next t) : t.Inv := by
  obtain ⟨x, hslot⟩ := exec_eq_executedSlot i s
  exact executedSlot_inv hinv (hslot ▸ h)

theorem step_inv {s t : State} (hinv : s.Inv) (h : step s = .next t) : t.Inv := by
  obtain ⟨byte, -, ⟨-, hexec⟩ | ⟨-, rfl⟩⟩ := step_next_iff.mp h
  · exact exec_inv hinv hexec
  · exact suppressedSlot_inv hinv

/-- Settles O7: a completed step is an executed or a suppressed slot, and each keeps the invariant whatever the
variant's `execute_one` is. -/
theorem everySlotKeepsInvariant : Obligations.EverySlotKeepsInvariant :=
  fun _ _ => step_inv

end Sys2Proof.Machine
end

section
/-! Changes of the state that a slot carries along untouched: if a change `f` passes through the phases of R112 and
through the slot's `execute_one` call, it passes through the slot. -/

namespace Sys2Proof.Machine

/-- The outcome of a call with the machine inside the slot replaced by its image. -/
def mapCall (f : State → State) (o : Host.Outcome (Slot × Cost) Fault Refusal) :
    Host.Outcome (Slot × Cost) Fault Refusal :=
  match o with
  | .next (t, k) => .next (t.with (f t.st), k)
  | .fault r => .fault r
  | .refused r => .refused r

/-- `f` passes through what every slot does by itself: phases S1 to S3, and phases S5 and S6 (R112). -/
structure PassesPhases (f : State → State) : Prop where
  begins : ∀ byte s, beginSlot byte (f s) = (beginSlot byte s).with (f (beginSlot byte s).st)
  ends : ∀ n t, endSlot n (t.with (f t.st)) = f (endSlot n t)

/-- `f` passes through the call `x`: the call neither sees the change nor undoes it. -/
def PassesCall (f : State → State) (x : Action) : Prop :=
  ∀ t, perform x (t.with (f t.st)) = mapCall f (perform x t)

theorem executedSlot_map {f : State → State} {x : Action} (hf : PassesPhases f) (hx : PassesCall f x) (byte : Byte)
    (s : State) : executedSlot byte x (f s) = mapNext f (executedSlot byte x s) := by
  unfold executedSlot
  rw [hf.begins, hx]
  cases perform x (beginSlot byte s) with
  | next r => simp [mapCall, mapNext, hf.ends]
  | fault r => rfl
  | refused r => rfl

theorem suppressedSlot_map {f : State → State} (hf : PassesPhases f) (hcfg : ∀ s, (f s).cfg = s.cfg)
    (hsup : ∀ s, suppress (f s) = f (suppress s)) (byte : Byte) (s : State) :
    suppressedSlot byte (f s) = f (suppressedSlot byte s) := by
  unfold suppressedSlot
  simp only [hf.begins, hcfg, slot_with_st, hsup]
  exact hf.ends s.cfg.skipCost ((beginSlot byte s).with (suppress (beginSlot byte s).st))

end Sys2Proof.Machine
end

section
/-! `sag` is stored only (10_state.md R30): of all accesses of R214 only `readSag` and `writeSag` touch it, and T0 makes
neither. -/

namespace Sys2Proof.Machine

/-- The machine with `sag` replaced. -/
def setSag (v : Bool) (s : State) : State := { s with sag := v }

theorem setSag_passesPhases (v : Bool) : PassesPhases (setSag v) where
  begins _ _ := rfl
  ends n t := by
    simp only [endSlot, commit, commitCarry, commitRamAddr, slot_with_st, slot_with_frame]
    split_ifs <;> rfl

theorem push_setSag (target : Nat) (v : Bool) (s : State) :
    push target (setSag v s) = setSag v (push target s) := by
  have hsp : (setSag v s).sp = s.sp := rfl
  simp only [push, hsp]
  split_ifs <;> rfl

/-- The call makes neither `readSag` nor `writeSag`, whatever its reads give. -/
def SagFree : Action → Prop
  | .readSag _ | .writeSag _ _ => False
  | .done _ | .unmapped => True
  | .writeA _ k | .writeB _ k | .pcLoad _ k | .push _ k | .skipRequest k | .carryWriteDelayed _ k
  | .carryWriteImmediate _ k | .ramAddrWriteDelayed _ k | .ramAddrWriteImmediate _ k | .dataWrite _ k
  | .progWrite _ _ k | .writePriv _ k => SagFree k
  | .readOp k | .readPrevOp k | .readPrev2Op k | .readPc k | .readPrevPc k | .readA k | .readB k | .readPrevA k
  | .readPrev2A k | .readPrevB k | .readPrev2B k | .readPrevC k | .pop k | .carryRead k | .carryInRead k
  | .ramAddrRead k | .dataRead k | .progRead _ k | .segLookup _ k | .readPriv k => ∀ r, SagFree (k r)

/-- A call that makes no access to `sag` passes every value of it through. -/
theorem SagFree.passes {x : Action} (v : Bool) (free : SagFree x) : PassesCall (setSag v) x := by
  intro t
  induction x generalizing t with
  | done cost => rfl
  | unmapped => rfl
  | readSag k ih => exact free.elim
  | writeSag b k ih => exact free.elim
  | push target k ih =>
    have hpush := push_setSag target v t.st
    simp only [perform, slot_with_st, hpush]
    exact ih free (t.with (push target t.st))
  | dataRead k ih =>
    have haddr : dataAddress (setSag v t.st) = dataAddress t.st := rfl
    simp only [perform, slot_with_st, haddr]
    cases dataAddress t.st with
    | none => rfl
    | some addr => exact ih _ (free _) t
  | dataWrite b k ih =>
    have haddr : dataAddress (setSag v t.st) = dataAddress t.st := rfl
    simp only [perform, slot_with_st, haddr]
    cases dataAddress t.st with
    | none => rfl
    | some addr => exact ih free (t.with (dataWrite addr b t.st))
  | segLookup a k ih =>
    have hport : (setSag v t.st).cfg = t.st.cfg := rfl
    simp only [perform, slot_with_st, hport]
    split_ifs
    · exact ih _ (free _) t
    · rfl
  | pop k ih => exact ih _ (free _) (t.with (pop t.st))
  | writeA _ k ih | writeB _ k ih | pcLoad _ k ih | skipRequest k ih | carryWriteDelayed _ k ih
  | carryWriteImmediate _ k ih | ramAddrWriteDelayed _ k ih | ramAddrWriteImmediate _ k ih | progWrite _ _ k ih
  | writePriv _ k ih =>
    rw [perform, perform, ← ih free]
    rfl
  | readOp k ih | readPrevOp k ih | readPrev2Op k ih | readPc k ih | readPrevPc k ih | readA k ih | readB k ih
  | readPrevA k ih | readPrev2A k ih | readPrevB k ih | readPrev2B k ih | readPrevC k ih | carryRead k ih
  | carryInRead k ih | ramAddrRead k ih | progRead _ k ih | readPriv k ih => exact ih _ (free _) t

theorem t0Action_sagFree (i : Instr) : SagFree (t0Action i) := by
  cases i with
  | prefix2 _ _ | skc | skaz | jmp _ | call _ =>
    intro r
    dsimp only
    split_ifs <;> simp [SagFree]
  | _ => simp [t0Action, actNop, actNop2, actSkip, actSc, actRc, actSci, actRci, actRet, actRetsk, actLd, actSt, actXab,
      actLapp, actAdc, actLai, actLb, actLbi, actAdi, actLar, SagFree]

theorem t0ExecuteOne_sagFree : SagFree t0ExecuteOne :=
  fun _ _ => t0Action_sagFree _

/-- The slot of a generic row hands its byte to the variant's `execute_one` (R97, R117). -/
theorem exec_genericRow (i : Instr) (s : State) (h : t0Row i = false) :
    exec i s = executedSlot (slotByte i s.op) (contractOf s.cfg.variant).executeOne s := by
  cases i with
  | byte opcode => rfl
  | prefix2 first second => rfl
  | _ => simp [t0Row] at h

theorem exec_setSag (i : Instr) (v : Bool) {s : State} (hvariant : s.cfg.variant = .t0) :
    exec i (setSag v s) = mapNext (setSag v) (exec i s) := by
  cases hrow : t0Row i with
  | true =>
    rw [exec_t0Row i _ hrow, exec_t0Row i _ hrow]
    exact executedSlot_map (setSag_passesPhases v) ((t0Action_sagFree i).passes v) _ s
  | false =>
    have hcall : (contractOf s.cfg.variant).executeOne = t0ExecuteOne := by rw [hvariant]; rfl
    rw [exec_genericRow i _ hrow, exec_genericRow i _ hrow]
    exact executedSlot_map (setSag_passesPhases v) (hcall ▸ t0ExecuteOne_sagFree.passes v) _ s

/-- Settles O46: the fetch, the suppressed slot and every call of T0 pass the value of `sag` through. -/
theorem sagHasNoInfluence : Obligations.SagHasNoInfluence := by
  intro s v hvariant
  have hfetch : fetchByte (setSag v s) = fetchByte s := rfl
  have hinstr : ∀ byte, instrAt byte (setSag v s) = instrAt byte s := fun _ => rfl
  have hcount : (setSag v s).skipCount = s.skipCount := rfl
  change runSlot (setSag v s) = mapNext (setSag v) (runSlot s)
  unfold runSlot
  rw [hfetch]
  cases fetchByte s with
  | none => rfl
  | some byte =>
    simp only [hinstr, hcount]
    split_ifs
    · exact exec_setSag _ v hvariant
    · exact congrArg _ (suppressedSlot_map (setSag_passesPhases v) (fun _ => rfl) (fun _ => rfl) byte s)

end Sys2Proof.Machine
end

section
/-! Port accesses stay inside their spaces (20_memory.md R64; 60_exceptions.md R280): the two faults of a slot are the
two addresses outside a space, and a data access needs only the committed RAM address to be inside. -/

namespace Sys2Proof.Machine

theorem dataAddress_of_le {s : State} (h : s.ramAddr ≤ s.cfg.dmask) : dataAddress s = some s.ramAddr := by
  simp [dataAddress, h]

/-- The one access that moves the committed RAM address masks it (R191), so a call that begins with it inside data space
never presents another address to the data port. -/
theorem perform_ne_fault {x : Action} {t : Slot} (h : t.st.ramAddr ≤ t.st.cfg.dmask) (r : Fault) :
    perform x t ≠ .fault r := by
  induction x generalizing t with
  | done cost => simp [perform]
  | unmapped => simp [perform]
  | dataRead k ih => simpa only [perform, dataAddress_of_le h] using ih _ h
  | dataWrite v k ih => simpa only [perform, dataAddress_of_le h] using ih (t := t.with (dataWrite t.st.ramAddr v t.st)) h
  | segLookup v k ih =>
    simp only [perform]
    split_ifs
    · exact ih _ h
    · simp
  | ramAddrWriteImmediate v k ih => exact ih (t := ramAddrWriteImmediate v t) (maskD_le _ v)
  | push v k ih => exact ih (t := t.with (push v t.st)) (by simpa using h)
  | pop k ih => exact ih _ (t := t.with (pop t.st)) h
  | writeA v k ih | writeB v k ih | writeSag v k ih | pcLoad v k ih | skipRequest k ih | carryWriteDelayed v k ih
  | carryWriteImmediate v k ih | ramAddrWriteDelayed v k ih | progWrite a v k ih | writePriv v k ih => exact ih h
  | readOp k ih | readPrevOp k ih | readPrev2Op k ih | readPc k ih | readPrevPc k ih | readA k ih | readB k ih
  | readPrevA k ih | readPrev2A k ih | readPrevB k ih | readPrev2B k ih | readPrevC k ih | readSag k ih
  | carryRead k ih | carryInRead k ih | ramAddrRead k ih | progRead a k ih | readPriv k ih => exact ih _ h

/-- Outside its call a slot has nothing that faults. -/
theorem executedSlot_fault_iff {byte : Byte} {x : Action} {s : State} {r : Fault} :
    executedSlot byte x s = .fault r ↔ perform x (beginSlot byte s) = .fault r := by
  unfold executedSlot
  cases perform x (beginSlot byte s) <;> simp

theorem exec_ne_fault {i : Instr} {s : State} (h : s.ramAddr ≤ s.cfg.dmask) (r : Fault) : exec i s ≠ .fault r := by
  obtain ⟨x, hslot⟩ := exec_eq_executedSlot i s
  rw [hslot, Ne, executedSlot_fault_iff]
  exact perform_ne_fault (by simpa using h) r

/-- Settles O8: the fetch finds `pc` inside program space, and the call, if there is one, finds the committed RAM
address inside data space. -/
theorem noSlotFaults : Obligations.NoSlotFaults := by
  intro s r hinv
  obtain ⟨⟨hpc, -⟩, ⟨hram, -⟩, -⟩ := hinv
  simp only [step, runSlot, fetchByte_of_le hpc]
  split_ifs
  · exact exec_ne_fault hram r
  · simp

end Sys2Proof.Machine
end

section
/-! One program read a slot (20_memory.md R72). Under T0 the slot of the decoded instruction is the core's slot for the
byte fetched: the byte after it, which only names an operand (log 6), has no influence. What is left to show is that no
call of T0 sees program memory. -/

namespace Sys2Proof.Machine

/-- The slot of an instruction is the core's slot if it fetches the same byte and the row does what T0's `execute_one`
does there; a generic row calls that `execute_one` itself. -/
theorem exec_eq_t0Slot {i : Instr} {s : State} {byte : Byte} (hvariant : s.cfg.variant = .t0)
    (hbyte : slotByte i s.op = byte)
    (hrow : executedSlot byte (t0Action i) s = executedSlot byte t0ExecuteOne s) :
    exec i s = executedSlot byte t0ExecuteOne s := by
  subst hbyte
  cases h : t0Row i with
  | true => rw [exec_t0Row i s h, hrow]
  | false => rw [exec_genericRow i s h, hvariant]; rfl

/-- Under T0 running the decoded instruction is the core's slot, which hands the byte fetched to `execute_one` (R117,
R240). -/
theorem exec_instrAt_t0 (byte : Byte) {s : State} (hvariant : s.cfg.variant = .t0) :
    exec (instrAt byte s) s = executedSlot byte t0ExecuteOne s := by
  have hclass : ∀ b, opIsPrefix s.cfg.variant b = t0IsPrefix b := by simp [hvariant, opIsPrefix]
  have hpair : ∀ p q, decodePair s.cfg.variant p q = t0Pair p q := by simp [hvariant, decodePair]
  cases hop : t0IsPrefix s.op with
  | true =>
    rw [instrAt_second ((hclass _).trans hop), hpair]
    exact exec_eq_t0Slot hvariant (by simp [slotByte_prefixPair, hop]) (by simp [executedSlot_t0, hop])
  | false =>
    rw [instrAt_first ((hclass _).trans hop), hpair]
    cases hb : t0IsPrefix byte with
    | true =>
      have hne : s.op ≠ byte := by rintro rfl; simp [hop] at hb
      exact exec_eq_t0Slot hvariant (by simp [slotByte_prefixPair, hb, hne])
        (by simp [executedSlot_t0, hop, t0_firstSlot _ hb hne])
    | false =>
      rw [t0Pair_of_classN _ hb]
      exact exec_eq_t0Slot hvariant (slotByte_classN byte s.op hb) (by simp [executedSlot_t0, hop])

/-- The machine with program memory replaced. -/
def setProg (m : Memory) (s : State) : State := { s with prog := m }

theorem setProg_passesPhases (m : Memory) : PassesPhases (setProg m) where
  begins _ _ := rfl
  ends n t := by
    simp only [endSlot, commit, commitCarry, commitRamAddr, slot_with_st, slot_with_frame]
    split_ifs <;> rfl

theorem push_setProg (target : Nat) (m : Memory) (s : State) :
    push target (setProg m s) = setProg m (push target s) := by
  have hsp : (setProg m s).sp = s.sp := rfl
  simp only [push, hsp]
  split_ifs <;> rfl

/-- A data read goes by the RAM address and the data memory, so it passes if what is done with the byte does. -/
theorem passesCall_dataRead {m : Memory} {k : Byte → Action} (hk : ∀ v, PassesCall (setProg m) (k v)) :
    PassesCall (setProg m) (.dataRead k) := by
  intro t
  have haddr : dataAddress (setProg m t.st) = dataAddress t.st := rfl
  simp only [perform, slot_with_st, haddr]
  cases dataAddress t.st with
  | none => rfl
  | some addr => exact hk _ t

theorem passesCall_dataWrite {m : Memory} {v : Byte} {k : Action} (hk : PassesCall (setProg m) k) :
    PassesCall (setProg m) (.dataWrite v k) := by
  intro t
  have haddr : dataAddress (setProg m t.st) = dataAddress t.st := rfl
  simp only [perform, slot_with_st, haddr]
  cases dataAddress t.st with
  | none => rfl
  | some addr => exact hk (t.with (dataWrite addr v t.st))

theorem passesCall_push {m : Memory} {target : Nat} {k : Action} (hk : PassesCall (setProg m) k) :
    PassesCall (setProg m) (.push target k) := by
  intro t
  simp only [perform, slot_with_st, push_setProg]
  exact hk (t.with (push target t.st))

theorem passesCall_ite {f : State → State} {p : Prop} [Decidable p] {x y : Action} (hx : PassesCall f x)
    (hy : PassesCall f y) : PassesCall f (if p then x else y) := by
  split_ifs
  · exact hx
  · exact hy

/-- No row of T0 calls `ProgRead` or `ProgWrite` (R242 to R264), so program memory passes through every access of the
row: the data port, the stack and the tests on what was read by the rules above, the others as they stand. -/
theorem t0Action_passes_setProg (m : Memory) (i : Instr) : PassesCall (setProg m) (t0Action i) := by
  have hdone : PassesCall (setProg m) (.done .one) := fun _ => rfl
  have hunmapped : PassesCall (setProg m) .unmapped := fun _ => rfl
  have hskip : PassesCall (setProg m) (.skipRequest (.done .one)) := fun _ => rfl
  have hjump : PassesCall (setProg m) (.readOp fun o => .pcLoad o.toNat (.done .one)) := fun _ => rfl
  have hcall : PassesCall (setProg m)
      (.readPc fun ret => .push ret (.readOp fun o => .pcLoad o.toNat (.done .one))) :=
    fun t => passesCall_push hjump t
  cases i with
  | ld => exact passesCall_dataRead fun _ _ => rfl
  | adc => exact fun t => passesCall_dataRead (fun _ _ => rfl) t
  | st => exact fun t => passesCall_dataWrite hdone t
  | skc | skaz => exact fun t => passesCall_ite hskip hdone t
  | prefix2 _ _ => exact fun t => passesCall_ite hunmapped hdone t
  | jmp _ => exact fun t => passesCall_ite hjump hdone t
  | call _ => exact fun t => passesCall_ite hcall hdone t
  | _ => exact fun _ => rfl

theorem t0ExecuteOne_passes_setProg (m : Memory) : PassesCall (setProg m) t0ExecuteOne :=
  fun t => t0Action_passes_setProg m _ t

/-- The fetch sees program memory at `pc` alone (R72, R114). -/
theorem fetchByte_setProg {m : Memory} {s : State} (h : readByte m s.pc = readByte s.prog s.pc) :
    fetchByte (setProg m s) = fetchByte s := by
  by_cases hpc : s.pc ≤ s.cfg.pmask <;> simp [fetchByte, fetchAddress, setProg, hpc, h]

/-- Settles O45: the two machines fetch the same byte, and both the suppressed slot and the slot that hands this byte to
T0's `execute_one` pass program memory through. -/
theorem oneProgramReadPerSlot : Obligations.OneProgramReadPerSlot := by
  intro s m hvariant hread
  have hcount : (setProg m s).skipCount = s.skipCount := rfl
  have hvariant' : (setProg m s).cfg.variant = .t0 := hvariant
  change runSlot (setProg m s) = mapNext (setProg m) (runSlot s)
  unfold runSlot
  rw [fetchByte_setProg hread]
  cases fetchByte s with
  | none => rfl
  | some byte =>
    simp only [hcount, exec_instrAt_t0 byte hvariant, exec_instrAt_t0 byte hvariant']
    split_ifs
    · exact executedSlot_map (setProg_passesPhases m) (t0ExecuteOne_passes_setProg m) byte s
    · exact congrArg _ (suppressedSlot_map (setProg_passesPhases m) (fun _ => rfl) (fun _ => rfl) byte s)

end Sys2Proof.Machine
end

section
/-! Program memory as plain memory (20_memory.md R65, R79; 44_decode_contract.md R231). -/

namespace Sys2Proof.Machine

/-- A write replaces the byte at its own address alone. -/
theorem readByte_writeByte {m : Memory} (addr : Nat) (v : Byte) (w : Memory.wf m = true) (x : Nat) :
    readByte (writeByte m addr v) x = if x = addr then v else readByte m x := by
  split_ifs with h
  · rw [h, readByte_writeByte_same addr v w]
  · exact readByte_writeByte_other v h

theorem fetchByte_progWrite {s : State} (addr : Nat) (v : Byte) (w : Memory.wf s.prog = true)
    (hpc : s.pc ≤ s.cfg.pmask) :
    fetchByte (progWrite addr v s) = some (if s.pc = maskP s.cfg addr then v else readByte s.prog s.pc) := by
  have hpc' : (progWrite addr v s).pc ≤ (progWrite addr v s).cfg.pmask := hpc
  calc fetchByte (progWrite addr v s)
      = some (readByte (writeByte s.prog (maskP s.cfg addr) v) s.pc) := fetchByte_of_le hpc'
    _ = _ := by rw [readByte_writeByte _ v w]

/-- Settles O55: the fetch after a write is a read after a write, and the two primitives are that read and that write
at the masked address. -/
theorem programWriteSeenByNextFetch : Obligations.ProgramWriteSeenByNextFetch := by
  refine ⟨?fetch, ?primitives⟩
  case fetch =>
    intro s addr v w hpc
    rw [fetchByte_progWrite addr v w hpc, fetchByte_of_le hpc]
    exact ⟨fun h => by simp [maskP, h], fun h => by simp [maskP, Ne.symm h]⟩
  case primitives =>
    intro t addr v f k
    exact ⟨rfl, rfl, fun w x => readByte_writeByte _ v w x⟩

end Sys2Proof.Machine
end

section
/-! Decoding and encoding (30_encoding.md R91 to R101; 45_reference_variant_t0.md R240, R265). What `decode` answers is
said once for each shape of a byte list; the two round trips then ask only what a byte, or a byte of class P and the byte
after it, is read as: a row of T0 or the generic row. -/

namespace Sys2Proof

open Machine

/-! ### The answer of `decode`, by the bytes there are (R92, R94) -/

@[simp] theorem decode_nil (v : Variant) : decode v [] = .error .noByte := rfl

theorem decode_classN {v : Variant} {b : Byte} (rest : List Byte) (h : opIsPrefix v b = false) :
    decode v (b :: rest) = .ok (decodePair v b 0#8, rest) := by simp [decode, h]

theorem decode_classP_alone {v : Variant} {b : Byte} (h : opIsPrefix v b = true) :
    decode v [b] = .error (.secondByteMissing b) := by simp [decode, h]

theorem decode_classP {v : Variant} {p : Byte} (q : Byte) (rest : List Byte) (h : opIsPrefix v p = true) :
    decode v (p :: q :: rest) = .ok (decodePair v p q, rest) := by simp [decode, h]

/-- A byte list is empty, begins with a byte of class N, is a lone byte of class P, or begins with a byte of class P and
the byte after it. -/
theorem byteList_cases (v : Variant) (bytes : List Byte) :
    bytes = [] ∨ (∃ b rest, bytes = b :: rest ∧ opIsPrefix v b = false) ∨ (∃ b, bytes = [b] ∧ opIsPrefix v b = true) ∨
      ∃ p q rest, bytes = p :: q :: rest ∧ opIsPrefix v p = true := by
  rcases bytes with _ | ⟨b, _ | ⟨q, rest⟩⟩
  · exact .inl rfl
  · cases hb : opIsPrefix v b
    · exact .inr (.inl ⟨b, [], rfl, hb⟩)
    · exact .inr (.inr (.inl ⟨b, rfl, hb⟩))
  · cases hb : opIsPrefix v b
    · exact .inr (.inl ⟨b, q :: rest, rfl, hb⟩)
    · exact .inr (.inr (.inr ⟨b, q, rest, rfl, hb⟩))

/-- What decodes begins with a byte of class N, or with a byte of class P and the byte after it (R91, R92). -/
theorem decode_ok_cases {v : Variant} {bytes rest : List Byte} {i : Instr} (h : decode v bytes = .ok (i, rest)) :
    (∃ b, opIsPrefix v b = false ∧ i = decodePair v b 0#8 ∧ bytes = b :: rest) ∨
    (∃ p q, opIsPrefix v p = true ∧ i = decodePair v p q ∧ bytes = p :: q :: rest) := by
  obtain rfl | ⟨b, rest, rfl, hb⟩ | ⟨b, rfl, hb⟩ | ⟨p, q, rest, rfl, hp⟩ := byteList_cases v bytes
  · cases h
  · rw [decode_classN rest hb] at h
    cases h
    exact .inl ⟨b, hb, rfl, rfl⟩
  · rw [decode_classP_alone hb] at h
    cases h
  · rw [decode_classP q rest hp] at h
    cases h
    exact .inr ⟨p, q, hp, rfl, rfl⟩

/-- The bytes after an instruction do not influence how it decodes. -/
theorem decode_append {v : Variant} {bytes rest : List Byte} {i : Instr} (more : List Byte)
    (h : decode v bytes = .ok (i, rest)) : decode v (bytes ++ more) = .ok (i, rest ++ more) := by
  obtain ⟨b, hb, rfl, rfl⟩ | ⟨p, q, hp, rfl, rfl⟩ := decode_ok_cases h
  · exact decode_classN (rest ++ more) hb
  · exact decode_classP q (rest ++ more) hp

/-- Settles O13: of the four shapes of a byte list two are rejected, each with its own reason. -/
theorem decodeRejectsOnlyMissingBytes : Obligations.DecodeRejectsOnlyMissingBytes := by
  intro v bytes e
  obtain rfl | ⟨b, rest, rfl, hb⟩ | ⟨b, rfl, hb⟩ | ⟨p, q, rest, rfl, hp⟩ := byteList_cases v bytes
  · simp [eq_comm (b := e)]
  · rw [decode_classN rest hb]
    simp [hb]
  · rw [decode_classP_alone hb]
    simp [hb, eq_comm (b := e)]
  · rw [decode_classP q rest hp]
    simp

/-! ### What a byte, or a pair of bytes, is read as -/

/-- T0's rows stand for words of T0 alone (R101). -/
theorem t0Row_wellFormed_iff {v : Variant} {i : Instr} (h : t0Row i = true) : i.wellFormed v = true ↔ v = .t0 := by
  cases i with
  | byte o => cases h
  | prefix2 p q => cases h
  | _ => exact decide_eq_true_iff

/-- Outside the rows of T0 there are the two generic rows (R97). -/
theorem generic_of_not_t0Row {i : Instr} (h : t0Row i = false) : (∃ o, i = .byte o) ∨ ∃ p q, i = .prefix2 p q := by
  cases i with
  | byte o => exact .inl ⟨o, rfl⟩
  | prefix2 p q => exact .inr ⟨p, q, rfl⟩
  | _ => cases h

@[simp] theorem decodePair_t0 (p q : Byte) : decodePair .t0 p q = t0Pair p q := rfl

/-- R101: only T0 has rows of its own. -/
theorem decodePair_of_ne_t0 {v : Variant} (p q : Byte) (h : v ≠ .t0) : decodePair v p q = genericPair v p q := by
  cases v with
  | t0 => exact absurd rfl h
  | probe => rfl
  | other n => rfl

/-- No row of T0 makes a generic instruction when bit 7 of the second byte is clear. -/
theorem t0Rows_build : ∀ (b : Byte), ∀ r ∈ t0Rows, t0Row (r.build b 0#8) = true := by
  simp [t0Rows, t0FixedRows, t0FieldRows, twoByte, t0Row]

theorem t0Pair_of_unmapped {b : Byte} (c : Byte) (h : t0Unmapped b = true) : t0Pair b c = genericPair .t0 b c := by
  have hnone : t0Rows.find? (fun r => b &&& r.mask == r.value) = none := by
    simpa [h, List.find?_eq_none] using t0Rows_cover b
  simp [t0Pair, hnone]

theorem t0Row_t0Pair_of_mapped {b : Byte} (h : t0Unmapped b = false) : t0Row (t0Pair b 0#8) = true := by
  obtain ⟨r, hr⟩ : ∃ r, t0Rows.find? (fun r => b &&& r.mask == r.value) = some r := by
    rw [← Option.isSome_iff_exists, List.find?_isSome]
    simpa [h] using t0Rows_cover b
  simpa [t0Pair, hr] using t0Rows_build b r (List.mem_of_find?_eq_some hr)

/-- Of the bytes of class N, those that R265 lists are the ones T0 reads as the generic row. -/
theorem t0Unmapped_iff_t0Pair {b : Byte} (hb : t0IsPrefix b = false) :
    t0Unmapped b = true ↔ t0Pair b 0#8 = .byte b := by
  cases h : t0Unmapped b with
  | true => simp [t0Pair_of_unmapped _ h, genericPair, opIsPrefix, hb]
  | false =>
    refine iff_of_false Bool.false_ne_true fun hbyte => ?_
    have hrow := t0Row_t0Pair_of_mapped h
    rw [hbyte] at hrow
    cases hrow

theorem bit7_iff_le : ∀ q : Byte, q.getLsbD 7 = true ↔ 0x80#8 ≤ q := by decide

/-- After a byte of class P, the second bytes that R265 lists are the ones T0 reads as the generic row. -/
theorem le_iff_t0Pair {p : Byte} (q : Byte) (h : t0IsPrefix p = true) :
    0x80#8 ≤ q ↔ t0Pair p q = .prefix2 p q := by
  rw [← bit7_iff_le]
  obtain ⟨hbit, hpair⟩ | ⟨hbit, hrow⟩ := t0Pair_prefixPair q h
  · simp [hbit, hpair]
  · refine iff_of_false (by rw [hbit]; exact Bool.false_ne_true) fun hpair => ?_
    rw [hpair] at hrow
    cases hrow

/-- `BYTE` is well formed exactly where a byte of class N is read as it. -/
theorem byte_wellFormed_iff {v : Variant} {b : Byte} :
    (Instr.byte b).wellFormed v = true ↔ opIsPrefix v b = false ∧ decodePair v b 0#8 = .byte b := by
  simp only [Instr.wellFormed, Bool.and_eq_true, Bool.not_eq_true', Bool.or_eq_true, decide_eq_true_eq]
  refine and_congr_right fun hb => ?_
  by_cases hv : v = .t0
  · subst hv
    simpa using t0Unmapped_iff_t0Pair hb
  · simp [hv, decodePair_of_ne_t0, genericPair, hb]

/-- `PREFIX2` is well formed exactly where a byte of class P and the byte after it are read as it. -/
theorem prefix2_wellFormed_iff {v : Variant} {p q : Byte} :
    (Instr.prefix2 p q).wellFormed v = true ↔ opIsPrefix v p = true ∧ decodePair v p q = .prefix2 p q := by
  simp only [Instr.wellFormed, Bool.and_eq_true, Bool.or_eq_true, decide_eq_true_eq]
  refine and_congr_right fun hp => ?_
  by_cases hv : v = .t0
  · subst hv
    simpa using le_iff_t0Pair q hp
  · simp [hv, decodePair_of_ne_t0, genericPair, hp]

/-- A byte of class N is a row of T0 or the generic row `BYTE`. -/
theorem decodePair_classN_cases {v : Variant} {b : Byte} (h : opIsPrefix v b = false) :
    (v = .t0 ∧ t0Row (decodePair v b 0#8) = true) ∨ decodePair v b 0#8 = .byte b := by
  by_cases hv : v = .t0
  · subst hv
    cases hrow : t0Row (t0Pair b 0#8)
    · exact .inr (t0Pair_generic b h hrow)
    · exact .inl ⟨rfl, hrow⟩
  · exact .inr (by simp [decodePair_of_ne_t0 _ _ hv, genericPair, h])

/-- A byte of class P and the byte after it are a row of T0 or the generic row `PREFIX2`. -/
theorem decodePair_classP_cases {v : Variant} {p : Byte} (q : Byte) (h : opIsPrefix v p = true) :
    (v = .t0 ∧ t0Row (decodePair v p q) = true) ∨ decodePair v p q = .prefix2 p q := by
  by_cases hv : v = .t0
  · subst hv
    obtain ⟨-, hpair⟩ | ⟨-, hrow⟩ := t0Pair_prefixPair q h
    · exact .inr hpair
    · exact .inl ⟨rfl, hrow⟩
  · exact .inr (by simp [decodePair_of_ne_t0 _ _ hv, genericPair, h])

/-! ### Decoding, then encoding -/

theorem encode_twoByte {make : BitVec 7 → Instr} {p : Byte} (q : Byte) (hmake : ∀ aa, encode (make aa) = withAA p aa) :
    encode (twoByte make p q) = [p, q] := by
  unfold twoByte
  split_ifs with hbit
  · rfl
  · simp [hmake, withAA, fieldAA_widened q (by simpa using hbit)]

theorem encode_t0Pair_classP {p : Byte} (q : Byte) (h : t0IsPrefix p = true) : encode (t0Pair p q) = [p, q] := by
  obtain rfl | rfl := t0IsPrefix_cases h
  · exact encode_twoByte q fun _ => rfl
  · exact encode_twoByte q fun _ => rfl

theorem decodePair_classN {v : Variant} {b : Byte} (h : opIsPrefix v b = false) :
    (decodePair v b 0#8).wellFormed v = true ∧ encode (decodePair v b 0#8) = [b] := by
  obtain ⟨rfl, hrow⟩ | hbyte := decodePair_classN_cases h
  · exact ⟨(t0Row_wellFormed_iff hrow).mpr rfl, encode_t0Pair_classN b h⟩
  · rw [hbyte]
    exact ⟨byte_wellFormed_iff.mpr ⟨h, hbyte⟩, rfl⟩

theorem decodePair_classP {v : Variant} {p : Byte} (q : Byte) (h : opIsPrefix v p = true) :
    (decodePair v p q).wellFormed v = true ∧ encode (decodePair v p q) = [p, q] := by
  obtain ⟨rfl, hrow⟩ | hpair := decodePair_classP_cases q h
  · exact ⟨(t0Row_wellFormed_iff hrow).mpr rfl, encode_t0Pair_classP q h⟩
  · rw [hpair]
    exact ⟨prefix2_wellFormed_iff.mpr ⟨h, hpair⟩, rfl⟩

/-- Settles O12: what decodes was read from a byte of class N, or from one of class P and the byte after it, and each
reading is well formed and encodes to those bytes. -/
theorem encodeOfDecode : Obligations.EncodeOfDecode := by
  intro v bytes rest i h
  obtain ⟨b, hb, rfl, rfl⟩ | ⟨p, q, hp, rfl, rfl⟩ := decode_ok_cases h
  · obtain ⟨hwf, hbytes⟩ := decodePair_classN hb
    exact ⟨hwf, by rw [hbytes]; rfl⟩
  · obtain ⟨hwf, hbytes⟩ := decodePair_classP q hp
    exact ⟨hwf, by rw [hbytes]; rfl⟩

/-! ### Encoding, then decoding -/

/-- The rows of T0, one by one; the operand of a row is 4 or 7 bits (R258 to R263). -/
theorem decode_encode_t0Row {i : Instr} (h : t0Row i = true) : decode .t0 (encode i) = .ok (i, []) := by
  cases i with
  | byte o => cases h
  | prefix2 p q => cases h
  | lai n | lb n | lbi n | adi n => revert n; decide
  | jmp aa | call aa => revert aa; decide
  | _ => rfl

theorem decode_encode {v : Variant} {i : Instr} (h : i.wellFormed v = true) : decode v (encode i) = .ok (i, []) := by
  cases hrow : t0Row i with
  | true =>
    obtain rfl := (t0Row_wellFormed_iff hrow).mp h
    exact decode_encode_t0Row hrow
  | false =>
    obtain ⟨o, rfl⟩ | ⟨p, q, rfl⟩ := generic_of_not_t0Row hrow
    · obtain ⟨ho, hread⟩ := byte_wellFormed_iff.mp h
      exact (decode_classN [] ho).trans (by rw [hread])
    · obtain ⟨hp, hread⟩ := prefix2_wellFormed_iff.mp h
      exact (decode_classP q [] hp).trans (by rw [hread])

/-- Settles O11: the bytes of a well-formed instruction decode to it, and bytes after them change nothing. -/
theorem decodeOfEncode : Obligations.DecodeOfEncode := by
  intro v i rest h
  exact decode_append rest (decode_encode h)

end Sys2Proof
end

section
/-! The step as the core's slot (40_sequencer.md R112, R116, R117; 45_reference_variant_t0.md R240): which instruction the
slot runs, and that running it hands the fetched byte to the variant's `execute_one`. -/

namespace Sys2Proof.Machine

/-- Whatever the Decode Contract, the slot of the instruction the fetched byte belongs to fetches that byte and calls the
variant's `execute_one` on it (R117). -/
theorem exec_instrAt (byte : Byte) (s : State) :
    exec (instrAt byte s) s = executedSlot byte (contractOf s.cfg.variant).executeOne s := by
  by_cases hv : s.cfg.variant = .t0
  · rw [exec_instrAt_t0 byte hv, hv]
    rfl
  · cases hop : opIsPrefix s.cfg.variant s.op with
    | true =>
      rw [instrAt_second hop, decodePair_of_ne_t0 _ _ hv, exec_genericPair]
      simp [hop]
    | false =>
      have hne : opIsPrefix s.cfg.variant byte = true → s.op ≠ byte := by
        rintro hbyte rfl
        simp [hop] at hbyte
      rw [instrAt_first hop, decodePair_of_ne_t0 _ _ hv, exec_genericPair]
      cases hbyte : opIsPrefix s.cfg.variant byte with
      | true => simp [hne hbyte]
      | false => simp

/-- Settles O9: both slots fetch and suppress alike, and the instruction at hand runs as the core's call. -/
theorem stepIsTheCoreSlot : Obligations.StepIsTheCoreSlot := by
  intro s
  simp only [step, runSlot, coreSlot, exec_instrAt]

/-- A completed step as the core has it: the fetched byte is handed to the variant's `execute_one`, or suppressed. -/
theorem step_next_core {s t : State} (h : step s = .next t) :
    ∃ byte, fetchByte s = some byte ∧
      (s.skipCount = 0 ∧ executedSlot byte (contractOf s.cfg.variant).executeOne s = .next t ∨
        s.skipCount ≠ 0 ∧ suppressedSlot byte s = t) := by
  simpa only [exec_instrAt] using step_next_iff.mp h

/-- A byte of class N is read without the byte after it (R91). -/
theorem decodePair_eq_of_classN {v : Variant} {b : Byte} (c : Byte) (h : opIsPrefix v b = false) :
    decodePair v b c = decodePair v b 0#8 := by
  by_cases hv : v = .t0
  · subst hv
    exact t0Pair_of_classN c h
  · simp [decodePair_of_ne_t0 _ _ hv, genericPair, h]

/-- Of two bytes, `decode` reads the instruction that `decodePair` makes of them. -/
theorem decodePair_of_decode {v : Variant} {b c : Byte} {i : Instr} {rest : List Byte}
    (h : decode v [b, c] = .ok (i, rest)) : decodePair v b c = i := by
  cases hb : opIsPrefix v b with
  | true =>
    rw [decode_classP c [] hb] at h
    cases h
    rfl
  | false =>
    rw [decode_classN [c] hb] at h
    cases h
    exact decodePair_eq_of_classN c hb

/-- With no skip pending the step runs the instruction the fetched byte belongs to (R112). -/
theorem step_of_executed {s : State} (hcount : s.skipCount = 0) (hpc : s.pc ≤ s.cfg.pmask) :
    step s = exec (instrAt (readByte s.prog s.pc) s) s := by
  simp [step, runSlot, fetchByte_of_le hpc, hcount]

/-- Settles O10: in either position the instruction of the slot is what its two bytes decode to. -/
theorem stepRunsDecodedInstruction : Obligations.StepRunsDecodedInstruction := by
  intro s i rest hcount hpc
  rw [step_of_executed hcount hpc]
  refine ⟨?first, ?second⟩
  case first =>
    intro hop hdecode
    have hpair : decodePair s.cfg.variant (readByte s.prog s.pc) (byteAfter s) = i := decodePair_of_decode hdecode
    rw [instrAt_first hop, hpair]
  case second =>
    intro hop hdecode
    rw [instrAt_second hop, decodePair_of_decode hdecode]

/-- Settles O27: a byte that is an instruction by itself is of class N, and its row does what T0's `execute_one` does
where the byte before is no first byte. -/
theorem genericByteIsItsT0Row : Obligations.GenericByteIsItsT0Row := by
  intro s o i hvariant hop hdecode
  obtain ⟨b, hb, rfl, hbytes⟩ | ⟨p, q, -, -, hbytes⟩ := decode_ok_cases hdecode
  · cases hbytes
    calc exec (.byte o) s
        = executedSlot o t0ExecuteOne s := by rw [exec_genericRow _ s rfl, hvariant]; rfl
      _ = exec (t0Pair o 0#8) s :=
          (exec_eq_t0Slot hvariant (slotByte_classN o s.op hb) (by simp [executedSlot_t0, hop])).symm
  · cases hbytes

end Sys2Proof.Machine
end

section
/-! The probe contract (95_test_vectors.md): a call that changes nothing leaves a plain slot of cost 1. -/

namespace Sys2Proof.Machine

theorem executedSlot_done_one (byte : Byte) (s : State) :
    executedSlot byte (.done .one) s = .next (plainSlot byte 1 s) :=
  congrArg _ (endSlot_beginSlot byte 1 s)

/-- Under the probe contract every generic row is a plain slot of the byte it fetches (R117). -/
theorem exec_genericRow_probe {i : Instr} {s : State} (hvariant : s.cfg.variant = .probe) (h : t0Row i = false) :
    exec i s = .next (plainSlot (slotByte i s.op) 1 s) := by
  rw [exec_genericRow i s h, hvariant]
  exact executedSlot_done_one _ s

/-- A run keeps the configuration (R8), so its variant. -/
theorem Reached.cfg {s t : State} {second : Bool} (h : Reached s t second) : t.cfg = s.cfg := by
  induction h with
  | start => rfl
  | slot _ hstep ih => exact (step_cfg hstep).trans ih

theorem agrees_of_probe {s : State} (hvariant : s.cfg.variant = .probe) : s.Agrees := by
  intro t second hreached _
  rw [hreached.cfg, hvariant]
  rfl

/-- Settles O26: `BYTE` fetches its byte, `PREFIX2` the first or the second of its bytes as the byte before has it. -/
theorem probeRunsEveryByte : Obligations.ProbeRunsEveryByte := by
  intro s o p q hvariant
  refine ⟨exec_genericRow_probe hvariant rfl, fun hfirst => ?_, fun hsecond => ?_, agrees_of_probe hvariant⟩
  · rw [exec_genericRow_probe hvariant rfl]
    simp [slotByte, encode, hfirst]
  · rw [exec_genericRow_probe hvariant rfl]
    simp [slotByte, encode, hsecond]

end Sys2Proof.Machine
end

section
/-! What a slot does to the histories and to `pc` (40_sequencer.md R113 to R115, R125). Phases S1 to S3 set them; no call
touches a history, and of T0's rows only the four of R125 load `pc`. -/

namespace Sys2Proof.Machine

@[simp] theorem endSlot_pc (n : Int) (t : Slot) : (endSlot n t).pc = t.st.pc := by simp [endSlot, commit]

@[simp] theorem endSlot_histories (n : Int) (t : Slot) :
    (endSlot n t).op = t.st.op ∧ (endSlot n t).prevOp = t.st.prevOp ∧ (endSlot n t).prev2Op = t.st.prev2Op ∧
    (endSlot n t).prevPc = t.st.prevPc ∧ (endSlot n t).prevA = t.st.prevA ∧ (endSlot n t).prev2A = t.st.prev2A ∧
    (endSlot n t).prevB = t.st.prevB ∧ (endSlot n t).prev2B = t.st.prev2B ∧ (endSlot n t).prevC = t.st.prevC := by
  simp [endSlot, commit]

/-- `t` holds the histories of a slot that began in `s` and fetched `byte` (R113, R115). -/
def Shifted (byte : Byte) (s t : State) : Prop :=
  t.prevPc = s.pc ∧ t.prevA = s.a ∧ t.prev2A = s.prevA ∧ t.prevB = s.b ∧ t.prev2B = s.prevB ∧ t.prevC = s.c ∧
  t.op = byte ∧ t.prevOp = s.op ∧ t.prev2Op = s.prevOp

theorem executedSlot_shifted {byte : Byte} {x : Action} {s t : State} (h : executedSlot byte x s = .next t) :
    Shifted byte s t := by
  obtain ⟨u, k, hperform, rfl⟩ := executedSlot_next_iff.mp h
  obtain ⟨-, hop, hprevOp, hprev2Op, hprevPc, hprevA, hprev2A, hprevB, hprev2B, hprevC, -⟩ := perform_untouched hperform
  simp [Shifted, hop, hprevOp, hprev2Op, hprevPc, hprevA, hprev2A, hprevB, hprev2B, hprevC]

theorem suppressedSlot_shifted (byte : Byte) (s : State) : Shifted byte s (suppressedSlot byte s) := by
  simp [Shifted, suppressedSlot]

/-- The byte a slot fetches is the one at `pc` (R114). -/
theorem fetchByte_eq_some {s : State} {byte : Byte} (h : fetchByte s = some byte) : byte = readByte s.prog s.pc := by
  by_cases hpc : s.pc ≤ s.cfg.pmask
  · simpa [fetchByte_of_le hpc, eq_comm] using h
  · simp [fetchByte, fetchAddress, hpc] at h

/-- Settles O40: both kinds of slot shift the histories, with the byte at `pc` as the newest. -/
theorem historiesShiftEverySlot : Obligations.HistoriesShiftEverySlot := by
  intro s t h
  obtain ⟨byte, hfetch, hslot⟩ := step_next_core h
  obtain rfl := fetchByte_eq_some hfetch
  obtain ⟨-, hexecuted⟩ | ⟨-, rfl⟩ := hslot
  · exact executedSlot_shifted hexecuted
  · exact suppressedSlot_shifted _ s

/-- The call leaves `pc` where phase S3 put it. -/
def KeepsPc (x : Action) : Prop :=
  ∀ (t u : Slot) (k : Cost), perform x t = .next (u, k) → u.st.pc = t.st.pc

theorem keepsPc_dataRead {k : Byte → Action} (hk : ∀ v, KeepsPc (k v)) : KeepsPc (.dataRead k) := by
  intro t u c h
  simp only [perform] at h
  split at h
  · exact hk _ t u c h
  · cases h

theorem keepsPc_dataWrite {v : Byte} {k : Action} (hk : KeepsPc k) : KeepsPc (.dataWrite v k) := by
  intro t u c h
  simp only [perform] at h
  split at h
  · exact hk (t.with (dataWrite _ v t.st)) u c h
  · cases h

theorem keepsPc_ite {p : Prop} [Decidable p] {x y : Action} (hx : KeepsPc x) (hy : KeepsPc y) :
    KeepsPc (if p then x else y) := by
  split_ifs
  · exact hx
  · exact hy

/-- R125: apart from the returns, the jump and the call no row of T0 makes a `PcLoad`. -/
theorem t0Action_keepsPc {i : Instr} (hret : i ≠ .ret) (hretsk : i ≠ .retsk) (hjmp : ∀ aa, i ≠ .jmp aa)
    (hcall : ∀ aa, i ≠ .call aa) : KeepsPc (t0Action i) := by
  have hdone : KeepsPc (.done .one) := by rintro t u k ⟨⟩; rfl
  have hskip : KeepsPc (.skipRequest (.done .one)) := by rintro t u k ⟨⟩; rfl
  have hunmapped : KeepsPc .unmapped := by rintro t u k ⟨⟩
  have hload : ∀ v, KeepsPc (.writeA v (.done .one)) := by rintro v t u k ⟨⟩; rfl
  have hsum : ∀ v c, KeepsPc (.writeA v (.carryWriteDelayed c (.done .one))) := by rintro v c t u k ⟨⟩; rfl
  have hcarryIn : ∀ {k}, (∀ c, KeepsPc (k c)) → KeepsPc (.carryInRead k) := fun hk t => hk _ t
  cases i with
  | ret => exact absurd rfl hret
  | retsk => exact absurd rfl hretsk
  | jmp aa => exact absurd rfl (hjmp aa)
  | call aa => exact absurd rfl (hcall aa)
  | byte _ => exact hunmapped
  | prefix2 _ _ => exact fun t => keepsPc_ite hunmapped hdone t
  | skc | skaz => exact fun t => keepsPc_ite hskip hdone t
  | ld => exact keepsPc_dataRead fun _ => hload _
  | adc => exact fun t => keepsPc_dataRead (fun _ => hcarryIn fun _ => hsum _ _) t
  | adi n => exact fun t => hsum _ _ t
  | st => exact fun t => keepsPc_dataWrite hdone t
  | _ => rintro t u k ⟨⟩; rfl

theorem executedSlot_pc {byte : Byte} {x : Action} {s t : State} (hx : KeepsPc x)
    (h : executedSlot byte x s = .next t) : t.pc = (s.pc + 1) &&& s.cfg.pmask := by
  obtain ⟨u, k, hperform, rfl⟩ := executedSlot_next_iff.mp h
  calc (endSlot (costCycles k) u).pc = u.st.pc := endSlot_pc _ _
    _ = (beginSlot byte s).st.pc := hx _ u k hperform
    _ = (s.pc + 1) &&& s.cfg.pmask := rfl

/-- Settles O42: the slot of a row whose call keeps `pc` ends at the next address. -/
theorem onlyFlowInstructionsLoadThePc : Obligations.OnlyFlowInstructionsLoadThePc := by
  intro s t i hrow hret hretsk hjmp hcall h
  rw [exec_t0Row i s hrow] at h
  exact executedSlot_pc (t0Action_keepsPc hret hretsk hjmp hcall) h

end Sys2Proof.Machine
end

section
/-! The budget (40_sequencer.md R118, R123; 70_reset_and_hazards.md R331): no access of R214 reaches `icount`, so a budget
shifted before a slot is the same shift after it. -/

namespace Sys2Proof.Machine

/-- The machine with its budget shifted. -/
def shiftBudget (d : Int) (s : State) : State := { s with icount := s.icount + d }

theorem shiftBudget_of_replace (s : State) (m : Int) : { s with icount := m } = shiftBudget (m - s.icount) s := by
  simp [shiftBudget]

theorem charge_shiftBudget (n d : Int) (s : State) : charge n (shiftBudget d s) = shiftBudget d (charge n s) := by
  have hbudget : s.icount + d - n = s.icount - n + d := by omega
  simp [charge, shiftBudget, hbudget]

theorem commit_shiftBudget (d : Int) (t : Slot) :
    commit (t.with (shiftBudget d t.st)) = shiftBudget d (commit t) := by
  simp only [commit, commitCarry, commitRamAddr, slot_with_st, slot_with_frame]
  split_ifs <;> rfl

theorem shiftBudget_passesPhases (d : Int) : PassesPhases (shiftBudget d) where
  begins _ _ := rfl
  ends n t := by rw [endSlot, commit_shiftBudget, charge_shiftBudget, endSlot]

theorem push_shiftBudget (target : Nat) (d : Int) (s : State) :
    push target (shiftBudget d s) = shiftBudget d (push target s) := by
  have hsp : (shiftBudget d s).sp = s.sp := rfl
  simp only [push, hsp]
  split_ifs <;> rfl

/-- Every call passes a shift of the budget through, whatever the variant. -/
theorem shiftBudget_passesCall (d : Int) (x : Action) : PassesCall (shiftBudget d) x := by
  intro t
  induction x generalizing t with
  | done cost => rfl
  | unmapped => rfl
  | push target k ih =>
    have hpush := push_shiftBudget target d t.st
    simp only [perform, slot_with_st, hpush]
    exact ih (t.with (push target t.st))
  | dataRead k ih =>
    have haddr : dataAddress (shiftBudget d t.st) = dataAddress t.st := rfl
    simp only [perform, slot_with_st, haddr]
    cases dataAddress t.st with
    | none => rfl
    | some addr => exact ih _ t
  | dataWrite b k ih =>
    have haddr : dataAddress (shiftBudget d t.st) = dataAddress t.st := rfl
    simp only [perform, slot_with_st, haddr]
    cases dataAddress t.st with
    | none => rfl
    | some addr => exact ih (t.with (dataWrite addr b t.st))
  | segLookup a k ih =>
    have hport : (shiftBudget d t.st).cfg = t.st.cfg := rfl
    simp only [perform, slot_with_st, hport]
    split_ifs
    · exact ih _ t
    · rfl
  | pop k ih => exact ih _ (t.with (pop t.st))
  | writeA _ k ih | writeB _ k ih | writeSag _ k ih | pcLoad _ k ih | skipRequest k ih | carryWriteDelayed _ k ih
  | carryWriteImmediate _ k ih | ramAddrWriteDelayed _ k ih | ramAddrWriteImmediate _ k ih | progWrite _ _ k ih
  | writePriv _ k ih =>
    rw [perform, perform, ← ih]
    rfl
  | readOp k ih | readPrevOp k ih | readPrev2Op k ih | readPc k ih | readPrevPc k ih | readA k ih | readB k ih
  | readPrevA k ih | readPrev2A k ih | readPrevB k ih | readPrev2B k ih | readPrevC k ih | readSag k ih
  | carryRead k ih | carryInRead k ih | ramAddrRead k ih | progRead _ k ih | readPriv k ih => exact ih _ t

theorem step_shiftBudget (d : Int) (s : State) : step (shiftBudget d s) = mapNext (shiftBudget d) (step s) := by
  have hfetch : fetchByte (shiftBudget d s) = fetchByte s := rfl
  have hcount : (shiftBudget d s).skipCount = s.skipCount := rfl
  have hcfg : (shiftBudget d s).cfg = s.cfg := rfl
  simp only [stepIsTheCoreSlot _, coreSlot, hfetch]
  cases fetchByte s with
  | none => rfl
  | some byte =>
    simp only [hcount, hcfg]
    split_ifs
    · exact executedSlot_map (shiftBudget_passesPhases d) (shiftBudget_passesCall d _) byte s
    · exact congrArg _ (suppressedSlot_map (shiftBudget_passesPhases d) (fun _ => rfl) (fun _ => rfl) byte s)

/-- Settles O47: replacing the budget is shifting it by the difference. -/
theorem budgetInfluencesNothing : Obligations.BudgetInfluencesNothing := by
  intro s m
  rw [shiftBudget_of_replace]
  exact step_shiftBudget _ s

theorem slots_shiftBudget (d : Int) (k : Nat) (s : State) :
    slots k (shiftBudget d s) = mapNext (shiftBudget d) (slots k s) := by
  induction k generalizing s with
  | zero => rfl
  | succ k ih =>
    simp only [slots, step_shiftBudget]
    cases step s with
    | next u => exact ih u
    | fault r => rfl
    | refused r => rfl

/-- What slots leave from a replaced budget is, but for `icount`, what they leave from the budget there was (R123). -/
theorem slots_of_replaced_budget {k : Nat} {m : Int} {s t : State} (h : slots k { s with icount := m } = .next t) :
    ∃ t', slots k s = .next t' ∧ { t' with icount := t.icount } = t := by
  rw [shiftBudget_of_replace, slots_shiftBudget] at h
  cases hslots : slots k s with
  | next t' =>
    rw [hslots] at h
    cases h
    exact ⟨t', rfl, rfl⟩
  | fault r => simp [hslots, mapNext] at h
  | refused r => simp [hslots, mapNext] at h

end Sys2Proof.Machine
end

section
/-! Runs (40_sequencer.md R110 to R126): `run` is a number of slots that stops when the budget is spent, each slot costs at
least 1 and at most `max(2, SKIP_COST)`. -/

namespace Sys2Proof.Machine

/-- `run` answers what its loop leaves and the cycles the loop took (R110). -/
theorem hostRun_next_iff {n k : Int} {s t : State} :
    hostRun n s = .next (t, k) ↔
      s.icount ≤ 0 ∧ runLoop n.toNat { s with icount := n } = .next t ∧ n - t.icount = k := by
  unfold hostRun runInProgress
  by_cases hidle : s.icount ≤ 0
  · have hidle' : ¬ 0 < s.icount := by omega
    have hcycles : ∀ u, u = t → (n - u.icount = k ↔ n - t.icount = k) := by rintro _ rfl; rfl
    cases runLoop n.toNat { s with icount := n } with
    | next u => simpa [hidle, hidle'] using hcycles u
    | fault r => simp [hidle']
    | refused r => simp [hidle']
  · have hbusy : 0 < s.icount := by omega
    simp [hidle, hbusy]

/-- Settles O48: the loop has no fuel, and takes no cycles. -/
theorem runWithoutBudgetDoesNothing : Obligations.RunWithoutBudgetDoesNothing := by
  intro s n hidle hn
  have hfuel : n.toNat = 0 := by omega
  exact hostRun_next_iff.mpr ⟨hidle, by rw [hfuel, runLoop], by simp⟩

/-- The guard of R111: the loop returns with the budget spent, or takes a slot and goes on. -/
theorem runLoop_succ_next_iff {fuel : Nat} {s t : State} :
    runLoop (fuel + 1) s = .next t ↔
      s.icount ≤ 0 ∧ s = t ∨ 0 < s.icount ∧ ∃ u, step s = .next u ∧ runLoop fuel u = .next t := by
  rw [runLoop]
  by_cases hspent : s.icount ≤ 0
  · simp [hspent, Int.not_lt.mpr hspent]
  · cases step s <;> simp [hspent, Int.not_le.mp hspent]

/-- The loop is some number of slots, at most its fuel. -/
theorem slots_of_runLoop {fuel : Nat} {s t : State} (h : runLoop fuel s = .next t) :
    ∃ j ≤ fuel, slots j s = .next t := by
  induction fuel generalizing s with
  | zero => exact ⟨0, le_rfl, h⟩
  | succ fuel ih =>
    obtain ⟨-, rfl⟩ | ⟨-, u, hstep, hrest⟩ := runLoop_succ_next_iff.mp h
    · exact ⟨0, Nat.zero_le _, rfl⟩
    · obtain ⟨j, hj, hslots⟩ := ih hrest
      exact ⟨j + 1, Nat.succ_le_succ hj, slots_succ_next_iff.mpr ⟨u, hstep, hslots⟩⟩

theorem slots_of_hostRun {n k : Int} {s t : State} (h : hostRun n s = .next (t, k)) :
    ∃ j ≤ n.toNat, slots j { s with icount := n } = .next t := by
  obtain ⟨-, hloop, -⟩ := hostRun_next_iff.mp h
  exact slots_of_runLoop hloop

theorem slots_add {j j' : Nat} {s t u : State} (h : slots j s = .next t) (h' : slots j' t = .next u) :
    slots (j + j') s = .next u := by
  induction j generalizing s with
  | zero =>
    cases h
    rwa [Nat.zero_add]
  | succ j ih =>
    obtain ⟨v, hstep, hrest⟩ := slots_succ_next_iff.mp h
    rw [Nat.succ_add]
    exact slots_succ_next_iff.mpr ⟨v, hstep, ih hrest⟩

/-- Settles O51: each run is some number of slots from a replaced budget, and replacing the budget moves `icount` alone. -/
theorem runsComposeAsSlots : Obligations.RunsComposeAsSlots := by
  intro s t u n m k k' hfirst hsecond
  obtain ⟨j, -, hj⟩ := slots_of_hostRun hfirst
  obtain ⟨t', ht', htt'⟩ := slots_of_replaced_budget hj
  obtain ⟨j', -, hj'⟩ := slots_of_hostRun hsecond
  rw [← htt'] at hj'
  obtain ⟨u', hu', huu'⟩ := slots_of_replaced_budget (s := t') hj'
  exact ⟨j, j', t', u', ht', slots_add ht' hu', htt', huu'⟩

/-! ### What slots cost (R119, R120, R122, R213) -/

/-- The most a slot costs (R120). -/
def maxCost (g : Config) : Int := max 2 (g.skipCost : Int)

@[simp] theorem endSlot_icount (n : Int) (t : Slot) : (endSlot n t).icount = t.st.icount - n := by
  simp [endSlot, commit]

theorem executedSlot_icount {byte : Byte} {x : Action} {s t : State} (h : executedSlot byte x s = .next t) :
    t.icount = s.icount - 1 ∨ t.icount = s.icount - 2 := by
  obtain ⟨u, k, hperform, rfl⟩ := executedSlot_next_iff.mp h
  obtain ⟨-, -, -, -, -, -, -, -, -, -, hbudget⟩ := perform_untouched hperform
  cases k <;> simp [hbudget, costCycles]

theorem suppressedSlot_icount (byte : Byte) (s : State) :
    (suppressedSlot byte s).icount = s.icount - s.cfg.skipCost := by simp [suppressedSlot]

/-- Every slot costs at least 1 and at most `max(2, SKIP_COST)`, whatever the Decode Contract. -/
theorem step_icount {s t : State} (hskip : 1 ≤ s.cfg.skipCost) (h : step s = .next t) :
    t.icount ≤ s.icount - 1 ∧ s.icount - maxCost s.cfg ≤ t.icount := by
  obtain ⟨byte, -, ⟨-, hslot⟩ | ⟨-, rfl⟩⟩ := step_next_core h
  · have := executedSlot_icount hslot
    unfold maxCost
    omega
  · rw [suppressedSlot_icount]
    unfold maxCost
    omega

theorem slots_icount {j : Nat} {s t : State} (hskip : 1 ≤ s.cfg.skipCost) (h : slots j s = .next t) :
    s.icount - t.icount ≤ j * maxCost s.cfg := by
  induction j generalizing s with
  | zero =>
    cases h
    simp
  | succ j ih =>
    obtain ⟨u, hstep, hrest⟩ := slots_succ_next_iff.mp h
    obtain ⟨-, hmost⟩ := step_icount hskip hstep
    have hcfg := step_cfg hstep
    have hlater := ih (hcfg ▸ hskip) hrest
    rw [hcfg] at hlater
    push_cast
    linarith

/-- With as much fuel as budget the loop returns only with the budget spent, and overruns it by less than one slot (R111,
R120). -/
theorem runLoop_icount {fuel : Nat} {s t : State} (hskip : 1 ≤ s.cfg.skipCost) (hfuel : s.icount ≤ fuel)
    (hover : -maxCost s.cfg < s.icount) (h : runLoop fuel s = .next t) :
    t.icount ≤ 0 ∧ -maxCost s.cfg < t.icount := by
  induction fuel generalizing s with
  | zero =>
    cases h
    exact ⟨by simpa using hfuel, hover⟩
  | succ fuel ih =>
    obtain ⟨hspent, rfl⟩ | ⟨hleft, u, hstep, hrest⟩ := runLoop_succ_next_iff.mp h
    · exact ⟨hspent, hover⟩
    · obtain ⟨hleast, hmost⟩ := step_icount hskip hstep
      have hcfg := step_cfg hstep
      rw [← hcfg] at hskip hmost ⊢
      exact ih hskip (by omega) (by omega) hrest

theorem hostRun_icount {n k : Int} {s t : State} (hskip : 1 ≤ s.cfg.skipCost) (hn : 0 < n)
    (h : hostRun n s = .next (t, k)) : t.icount ≤ 0 ∧ -maxCost s.cfg < t.icount := by
  obtain ⟨-, hloop, -⟩ := hostRun_next_iff.mp h
  have hcost : 0 < maxCost s.cfg := by unfold maxCost; omega
  have hover : -maxCost s.cfg < n := by omega
  exact runLoop_icount (s := { s with icount := n }) hskip (Int.self_le_toNat n) hover hloop

/-- Settles O49: the run took its budget and what the last slot overran. -/
theorem runOverrunBounds : Obligations.RunOverrunBounds := by
  intro s t n k hskip hn h
  obtain ⟨hspent, hover⟩ := hostRun_icount hskip hn h
  obtain ⟨-, -, hcycles⟩ := hostRun_next_iff.mp h
  unfold maxCost at hover
  omega

/-- Settles O50: the fuel bounds the slots from above, and the budget they spent from below. -/
theorem runSlotCount : Obligations.RunSlotCount := by
  intro s t n k hskip hn h
  obtain ⟨hspent, -⟩ := hostRun_icount hskip hn h
  obtain ⟨j, hj, hslots⟩ := slots_of_hostRun h
  have hcost : n - t.icount ≤ j * maxCost s.cfg := slots_icount (s := { s with icount := n }) hskip hslots
  exact ⟨j, hslots, by omega, le_trans (by omega) hcost⟩

end Sys2Proof.Machine
end

section
/-! The skip mechanism (41_skip.md R140 to R146). An `execute_one` call keeps the skip fields or requests a skip; a
suppressed slot is a plain slot that counts them down; the rows of R146 and the one or two slots of R144 follow. -/

namespace Sys2Proof.Machine

/-! ### The suppressed slot (R143, R145) -/

/-- The machine with its skip fields replaced. -/
def setSkip (fresh : Bool) (n : Fin 3) (s : State) : State := { s with skip := fresh, skipCount := n }

theorem setSkip_passesPhases (fresh : Bool) (n : Fin 3) : PassesPhases (setSkip fresh n) where
  begins _ _ := rfl
  ends _ t := by
    simp only [endSlot, commit, commitCarry, commitRamAddr, slot_with_st, slot_with_frame]
    split_ifs <;> rfl

/-- The slots still to suppress after one suppressed slot that fetched `byte`: one more when a fresh request meets a
prefix byte, else one less than before (R143). -/
def skipCountAfter (byte : Byte) (s : State) : Fin 3 :=
  if s.skip = true ∧ opIsPrefix s.cfg.variant byte = true then 1 else if s.skipCount = 2 then 1 else 0

theorem countDown_eq (n : Fin 3) : countDown n = if n = 2 then 1 else 0 := by revert n; decide

theorem countDown_lookahead (s : State) : countDown (lookahead s) = skipCountAfter s.op s := by
  by_cases hraised : s.skip = true ∧ opIsPrefix s.cfg.variant s.op = true
  · simp [countDown_eq, lookahead, skipCountAfter, hraised]
  · simp [countDown_eq, lookahead, skipCountAfter, hraised]

/-- A suppressed slot is what every slot does, at the cost of `SKIP_COST`, and the skip fields counted down. -/
theorem suppressedSlot_eq (byte : Byte) (s : State) :
    suppressedSlot byte s = setSkip false (skipCountAfter byte s) (plainSlot byte s.cfg.skipCost s) := by
  have hsuppress : suppress (beginSlot byte s).st = setSkip false (skipCountAfter byte s) (beginSlot byte s).st :=
    congrArg (setSkip false · (beginSlot byte s).st) (countDown_lookahead (beginSlot byte s).st)
  calc suppressedSlot byte s
      = endSlot s.cfg.skipCost ((beginSlot byte s).with (suppress (beginSlot byte s).st)) := rfl
    _ = setSkip false (skipCountAfter byte s) (endSlot s.cfg.skipCost (beginSlot byte s)) := by
        rw [hsuppress, (setSkip_passesPhases _ _).ends]
    _ = setSkip false (skipCountAfter byte s) (plainSlot byte s.cfg.skipCost s) := by rw [endSlot_beginSlot]

/-- With a skip pending the step suppresses the byte at `pc`, whatever it is (R116). -/
theorem step_of_suppressed {s : State} (hpc : s.pc ≤ s.cfg.pmask) (hcount : s.skipCount ≠ 0) :
    step s = .next (setSkip false (skipCountAfter (readByte s.prog s.pc) s)
      (plainSlot (readByte s.prog s.pc) s.cfg.skipCost s)) := by
  rw [← suppressedSlot_eq]
  simp [step, runSlot, fetchByte_of_le hpc, hcount]

/-- Settles O31: the count after the slot is the one the statement writes out. -/
theorem suppressedSlotResult : Obligations.SuppressedSlotResult :=
  fun _ => step_of_suppressed

/-! ### What an executed slot does to the skip fields (R141) -/

/-- The skip fields are those of `s`, or those of a fresh request. -/
def SkipKeptOrRequested (s s' : State) : Prop :=
  (s'.skip = s.skip ∧ s'.skipCount = s.skipCount) ∨ (s'.skip = true ∧ s'.skipCount = 1)

/-- Of the accesses of R214 only `SkipRequest` reaches the skip fields. -/
theorem perform_skipKeptOrRequested {x : Action} {t t' : Slot} {k : Cost} (h : perform x t = .next (t', k)) :
    SkipKeptOrRequested t.st t'.st := by
  induction x generalizing t with
  | done cost =>
    cases h
    exact .inl ⟨rfl, rfl⟩
  | unmapped => cases h
  | skipRequest k ih => exact .inr ((ih h).elim id id)
  | dataRead k ih =>
    simp only [perform] at h
    split at h
    · exact ih _ h
    · cases h
  | dataWrite v k ih =>
    simp only [perform] at h
    split at h
    · exact (ih h :)
    · cases h
  | segLookup v k ih =>
    simp only [perform] at h
    split at h
    · exact ih _ h
    · cases h
  | push v k ih => simpa [SkipKeptOrRequested] using ih h
  | writeA v k ih | writeB v k ih | writeSag v k ih | pcLoad v k ih | carryWriteDelayed v k ih
  | carryWriteImmediate v k ih | ramAddrWriteDelayed v k ih | ramAddrWriteImmediate v k ih | progWrite a v k ih
  | writePriv v k ih => exact (ih h :)
  | pop k ih => exact (ih _ h :)
  | readOp k ih | readPrevOp k ih | readPrev2Op k ih | readPc k ih | readPrevPc k ih | readA k ih
  | readB k ih | readPrevA k ih | readPrev2A k ih | readPrevB k ih | readPrev2B k ih | readPrevC k ih | readSag k ih
  | carryRead k ih | carryInRead k ih | ramAddrRead k ih | progRead a k ih | readPriv k ih => exact ih _ h

@[simp] theorem endSlot_skipFields (n : Int) (t : Slot) :
    (endSlot n t).skip = t.st.skip ∧ (endSlot n t).skipCount = t.st.skipCount := by
  simp [endSlot, commit]

theorem executedSlot_skipKeptOrRequested {byte : Byte} {x : Action} {s t : State}
    (h : executedSlot byte x s = .next t) : SkipKeptOrRequested s t := by
  obtain ⟨u, k, hperform, rfl⟩ := executedSlot_next_iff.mp h
  simpa [SkipKeptOrRequested] using perform_skipKeptOrRequested hperform

/-! ### The rows of R146 -/

/-- Under the invariant no request is fresh where no slot is to be suppressed (R36 item 5). -/
theorem skip_eq_false_of_skipCount_zero {s : State} (hinv : s.Inv) (hcount : s.skipCount = 0) : s.skip = false := by
  obtain ⟨-, -, -, ⟨hfresh, -⟩, -⟩ := hinv
  by_contra hskip
  have hone : s.skipCount = 1 := hfresh (by simpa using hskip)
  exact absurd (hcount.symm.trans hone) (by decide)

/-- From (0,0): no skip, or a fresh request. -/
theorem executed_step_skipFields {s t : State} (hinv : s.Inv) (hcount : s.skipCount = 0) (h : step s = .next t) :
    (t.skip = false ∧ t.skipCount = 0) ∨ (t.skip = true ∧ t.skipCount = 1) := by
  obtain ⟨byte, -, ⟨-, hslot⟩ | ⟨hpending, -⟩⟩ := step_next_core h
  · simpa only [SkipKeptOrRequested, skip_eq_false_of_skipCount_zero hinv hcount, hcount]
      using executedSlot_skipKeptOrRequested hslot
  · exact absurd hcount hpending

/-- With one slot to suppress, the count after it is 1 or 0 as the lookahead of a fresh request has it. -/
theorem step_of_skipCount_one {s : State} {n : Fin 3} (hpc : s.pc ≤ s.cfg.pmask) (hcount : s.skipCount = 1)
    (hn : (if s.skip = true ∧ opIsPrefix s.cfg.variant (readByte s.prog s.pc) = true then 1 else 0) = n) :
    step s = .next (setSkip false n (plainSlot (readByte s.prog s.pc) s.cfg.skipCost s)) := by
  have hafter : skipCountAfter (readByte s.prog s.pc) s = n := by
    rw [← hn, skipCountAfter, hcount, if_neg (by decide : (1 : Fin 3) ≠ 2)]
  rw [step_of_suppressed hpc (by simp [hcount]), hafter]

/-- From (1,1), over a byte of class N. -/
theorem step_of_fresh_classN {s : State} (hpc : s.pc ≤ s.cfg.pmask) (hcount : s.skipCount = 1)
    (hbyte : opIsPrefix s.cfg.variant (readByte s.prog s.pc) = false) :
    step s = .next (setSkip false 0 (plainSlot (readByte s.prog s.pc) s.cfg.skipCost s)) :=
  step_of_skipCount_one hpc hcount (by simp [hbyte])

/-- From (1,1), over a prefix byte. -/
theorem step_of_fresh_classP {s : State} (hpc : s.pc ≤ s.cfg.pmask) (hcount : s.skipCount = 1) (hfresh : s.skip = true)
    (hbyte : opIsPrefix s.cfg.variant (readByte s.prog s.pc) = true) :
    step s = .next (setSkip false 1 (plainSlot (readByte s.prog s.pc) s.cfg.skipCost s)) :=
  step_of_skipCount_one hpc hcount (by simp [hfresh, hbyte])

/-- From (0,1), over any byte. -/
theorem step_of_stale {s : State} (hpc : s.pc ≤ s.cfg.pmask) (hcount : s.skipCount = 1) (hstale : s.skip = false) :
    step s = .next (setSkip false 0 (plainSlot (readByte s.prog s.pc) s.cfg.skipCost s)) :=
  step_of_skipCount_one hpc hcount (by simp [hstale])

theorem skipFields_of_step_eq {s t u : State} {n : Fin 3} (h : step s = .next t)
    (hstep : step s = .next (setSkip false n u)) : t.skip = false ∧ t.skipCount = n := by
  cases h.symm.trans hstep
  exact ⟨rfl, rfl⟩

/-- Settles O32: the executed row is the call's, and the three suppressed rows are those of the suppressed slot. -/
theorem skipTransitionTable : Obligations.SkipTransitionTable := by
  intro s t hinv h
  have ⟨⟨hpc, _⟩, _⟩ := hinv
  refine ⟨?executed, ?classN, ?classP, ?stale⟩
  case executed => exact fun hcount => executed_step_skipFields hinv hcount h
  case classN => exact fun hcount _ hbyte => skipFields_of_step_eq h (step_of_fresh_classN hpc hcount hbyte)
  case classP => exact fun hcount hfresh hbyte => skipFields_of_step_eq h (step_of_fresh_classP hpc hcount hfresh hbyte)
  case stale => exact fun hcount hstale => skipFields_of_step_eq h (step_of_stale hpc hcount hstale)

/-! ### One slot, or two (R144) -/

theorem slots_one (s : State) : slots 1 s = step s := by
  rw [slots]
  cases step s <;> rfl

/-- Settles O33: over a byte of class N the request is spent at once; over a prefix byte one slot is left to suppress,
no longer fresh, so the byte after it is suppressed whatever it is, and then nothing is left. -/
theorem skipSwallowsWholeInstruction : Obligations.SkipSwallowsWholeInstruction := by
  rintro s ⟨⟨hpc, -⟩, -, -, ⟨hone, -⟩, -⟩ hfresh
  have hcount : s.skipCount = 1 := hone hfresh
  refine ⟨fun hbyte => ?classN, fun hbyte => ?classP⟩
  case classN =>
    refine ⟨_, (slots_one s).trans (step_of_fresh_classN hpc hcount hbyte), ?_⟩
    simp [setSkip, plainSlot]
  case classP =>
    have hfirst := step_of_fresh_classP hpc hcount hfresh hbyte
    have hsecond := step_of_stale (s := setSkip false 1 (plainSlot (readByte s.prog s.pc) s.cfg.skipCost s))
      (maskP_le s.cfg (s.pc + 1)) rfl rfl
    have hboth := slots_succ_next_iff.mpr ⟨_, hfirst, (slots_one _).trans hsecond⟩
    refine ⟨_, _, (slots_one s).trans hfirst, rfl, hboth, ?_⟩
    simp [setSkip, plainSlot]

/-! ### The flow primitives and the plain accesses (R141, R213, R214, R216) -/

/-- Asking twice for a skip is asking once (R141). -/
@[simp] theorem skipRequest_skipRequest (s : State) : skipRequest (skipRequest s) = skipRequest s := rfl

/-- Of two loads of the program counter the last wins (R216). -/
@[simp] theorem pcLoad_pcLoad (v w : Nat) (s : State) : pcLoad w (pcLoad v s) = pcLoad w s := rfl

theorem perform_skipRequest (k : Action) (t : Slot) :
    perform (.skipRequest k) t = perform k (t.with (skipRequest t.st)) := rfl

theorem perform_pcLoad (v : Nat) (k : Action) (t : Slot) :
    perform (.pcLoad v k) t = perform k (t.with (pcLoad v t.st)) := rfl

/-- A slot whose state is replaced twice holds the second state. -/
@[simp] theorem slot_with_with (t : Slot) (s s' : State) : (t.with s).with s' = t.with s' := rfl

/-- Settles O59: each access is one equation of `perform`; the two repeated calls are the laws above. -/
theorem flowPrimitives : Obligations.FlowPrimitives := by
  intro t v w k
  refine ⟨perform_skipRequest k t, ?skipTwice, perform_pcLoad v k t, ?loadTwice, rfl, ?pcReads, ?opReads, ?registerReads,
    ?carryRead, ?sagRead, ?writes, ?sagWrite, ?done⟩
  case skipTwice => simp only [perform_skipRequest, slot_with_st, slot_with_with, skipRequest_skipRequest]
  case loadTwice => simp only [perform_pcLoad, slot_with_st, slot_with_with, pcLoad_pcLoad]
  case pcReads => exact fun _ => ⟨rfl, rfl, rfl⟩
  case opReads => exact fun _ => ⟨rfl, rfl, rfl⟩
  case registerReads => exact fun _ => ⟨rfl, rfl, rfl, rfl, rfl, rfl⟩
  case carryRead => exact fun _ => rfl
  case sagRead => exact fun _ => rfl
  case writes => exact fun _ => ⟨rfl, rfl⟩
  case sagWrite => exact fun _ => rfl
  case done => exact fun _ => rfl

end Sys2Proof.Machine
end

section
/-! The call stack (42_stack.md R160 to R166): `push` at each of the three level counts, the register a pop returns, and
what further pops on an emptied stack do. -/

namespace Sys2Proof.Machine

/-! ### Push and pop, by the level count (R165) -/

theorem push_of_empty {s : State} (h : s.sp = 0) (v : Nat) :
    push v s = { s with stack0 := maskP s.cfg v, sp := 1 } := by
  simp [push, h, countUp]

theorem push_of_one {s : State} (h : s.sp = 1) (v : Nat) :
    push v s = { s with stack1 := maskP s.cfg v, sp := 2 } := by
  simp [push, h, countUp]

/-- At two levels the older entry is lost and the count stays (R161). -/
theorem push_of_full {s : State} (h : s.sp = 2) (v : Nat) :
    push v s = { s with stack0 := s.stack1, stack1 := maskP s.cfg v, sp := 2 } := by
  rw [← h]
  exact if_pos h

theorem popped_of_not_full {s : State} (h : s.sp ≠ 2) : popped s = s.stack0 :=
  if_pos ((countDown_zero_iff s.sp).mpr h)

theorem popped_of_full {s : State} (h : s.sp = 2) : popped s = s.stack1 :=
  if_neg fun hzero => (countDown_zero_iff s.sp).mp hzero h

theorem pop_of_not_full {s : State} (h : s.sp ≠ 2) : pop s = { s with sp := 0 } := by
  simp [pop, countDown_eq, h]

theorem pop_of_full {s : State} (h : s.sp = 2) : pop s = { s with sp := 1 } := by
  simp [pop, countDown_eq, h]

/-- Settles O34: each row is the law of `push`, `popped` and `pop` at its level count. -/
theorem stackBehaviourTable : Obligations.StackBehaviourTable := by
  intro s v
  refine ⟨fun hempty => ?empty, fun hone => ?one, fun hfull => ?full⟩
  case empty => exact ⟨push_of_empty hempty v, popped_of_empty hempty, pop_of_not_full (by simp [hempty])⟩
  case one =>
    have hnotFull : s.sp ≠ 2 := by simp [hone]
    exact ⟨push_of_one hone v, popped_of_not_full hnotFull, pop_of_not_full hnotFull⟩
  case full => exact ⟨push_of_full hfull v, popped_of_full hfull, pop_of_full hfull⟩

/-! ### Pops one after another (R162, R163) -/

/-- A pop never leaves two levels, so the one after it returns the older register, be it an entry or stale. -/
theorem popped_pop (s : State) : popped (pop s) = s.stack0 := by
  have hnotFull : (pop s).sp ≠ 2 := by
    rw [pop_sp, countDown_eq]
    split_ifs <;> decide
  rw [popped_of_not_full hnotFull]
  simp

/-- Two pops empty the stack, whatever it held. -/
theorem pop_pop_sp (s : State) : (pop (pop s)).sp = 0 := by
  simp only [pop_sp, countDown_eq]
  split_ifs <;> simp_all

/-- A pop on the empty stack changes nothing (R163). -/
theorem pop_of_empty {s : State} (h : s.sp = 0) : pop s = s := by
  rw [pop_of_not_full (by simp [h]), ← h]

/-- Settles O35: the push leaves the former newer entry in the older register, and every pop but the first returns
that register. -/
theorem thirdPushEvictsAndStalePopRepeats : Obligations.ThirdPushEvictsAndStalePopRepeats := by
  intro s v hfull
  have holder : (push v s).stack0 = s.stack1 := by simp [hfull]
  refine ⟨?first, ?second, ?stale, pop_of_empty (pop_pop_sp (push v s))⟩
  case first => rw [push_of_full hfull, popped_of_full rfl]; rfl
  case second => rw [popped_pop, holder]
  case stale =>
    calc popped (pop (pop (push v s)))
      _ = (pop (push v s)).stack0 := popped_pop _
      _ = (push v s).stack0 := by simp
      _ = s.stack1 := holder

end Sys2Proof.Machine
end

section
/-! The delay latches (43_delay_latches.md R180 to R199). Phase S5 is said once: what it will leave in each committed
latch. A call moves that only by an immediate write, so of T0's rows only `SCI`, `RCI` and `LBI` can; every other slot
ends with what the slot before staged. -/

namespace Sys2Proof.Machine

/-! ### What the commit of a slot leaves (R183, R188) -/

/-- The committed carry as phase S5 will leave it. -/
def carryAtEnd (t : Slot) : Bit := if t.cDue then t.cDueV else t.st.c

/-- The committed data address as phase S5 will leave it. -/
def ramAddrAtEnd (t : Slot) : Nat := if t.rDue then t.rDueV else t.st.ramAddr

@[simp] theorem endSlot_c (n : Int) (t : Slot) : (endSlot n t).c = carryAtEnd t := by
  simp [endSlot, commit, carryAtEnd]

@[simp] theorem endSlot_ramAddr (n : Int) (t : Slot) : (endSlot n t).ramAddr = ramAddrAtEnd t := by
  simp [endSlot, commit, ramAddrAtEnd]

/-- Phases S5 and S6 leave what the slot itself staged for the slot after it. -/
@[simp] theorem endSlot_staged (n : Int) (t : Slot) :
    (endSlot n t).cIn = t.st.cIn ∧ (endSlot n t).cDelay = t.st.cDelay ∧ (endSlot n t).ramAddrIn = t.st.ramAddrIn ∧
    (endSlot n t).ramDelay = t.st.ramDelay := by
  simp [endSlot, commit]

/-- The committed carry after a slot that makes no immediate write: what the slot before staged, if it staged one. -/
def committedCarry (s : State) : Bit := if s.cDelay then s.cIn else s.c

/-- The committed data address after a slot that makes no immediate write. -/
def committedRamAddr (s : State) : Nat := if s.ramDelay then s.ramAddrIn else s.ramAddr

@[simp] theorem carryAtEnd_beginSlot (byte : Byte) (s : State) : carryAtEnd (beginSlot byte s) = committedCarry s := by
  simp [carryAtEnd, committedCarry]

@[simp] theorem ramAddrAtEnd_beginSlot (byte : Byte) (s : State) :
    ramAddrAtEnd (beginSlot byte s) = committedRamAddr s := by
  simp [ramAddrAtEnd, committedRamAddr]

theorem committedCarry_of_staged {s : State} (h : s.cDelay = true) : committedCarry s = s.cIn := if_pos h

theorem committedCarry_of_idle {s : State} (h : s.cDelay = false) : committedCarry s = s.c := by simp [committedCarry, h]

theorem committedRamAddr_of_staged {s : State} (h : s.ramDelay = true) : committedRamAddr s = s.ramAddrIn := if_pos h

theorem committedRamAddr_of_idle {s : State} (h : s.ramDelay = false) : committedRamAddr s = s.ramAddr := by
  simp [committedRamAddr, h]

/-! ### Calls that make no immediate write -/

/-- The call, where it completes, leaves the observation `f` of the slot as it was. -/
def Keeps {α : Type} (f : Slot → α) (x : Action) : Prop :=
  ∀ (t u : Slot) (k : Cost), perform x t = .next (u, k) → f u = f t

theorem keeps_ite {α : Type} {f : Slot → α} {p : Prop} [Decidable p] {x y : Action} (hx : Keeps f x) (hy : Keeps f y) :
    Keeps f (if p then x else y) := by
  split_ifs
  · exact hx
  · exact hy

theorem keeps_dataRead {α : Type} {f : Slot → α} {k : Byte → Action} (hk : ∀ v, Keeps f (k v)) :
    Keeps f (.dataRead k) := by
  intro t u c h
  simp only [perform] at h
  split at h
  · exact hk _ t u c h
  · cases h

/-- Both committed latches as phase S5 will leave them. -/
def latchesAtEnd (t : Slot) : Bit × Nat := (carryAtEnd t, ramAddrAtEnd t)

theorem keeps_dataWrite {v : Byte} {k : Action} (hk : Keeps latchesAtEnd k) : Keeps latchesAtEnd (.dataWrite v k) := by
  intro t u c h
  simp only [perform] at h
  split at h
  · exact hk (t.with (dataWrite _ v t.st)) u c h
  · cases h

theorem keeps_push {v : Nat} {k : Action} (hk : Keeps latchesAtEnd k) : Keeps latchesAtEnd (.push v k) := by
  intro t u c h
  calc latchesAtEnd u = latchesAtEnd (t.with (push v t.st)) := hk _ u c h
    _ = latchesAtEnd t := by simp [latchesAtEnd, carryAtEnd, ramAddrAtEnd]

/-- Apart from `SCI`, `RCI` and `LBI` (R248, R249, R260) no row of T0 makes an immediate write. -/
theorem t0Action_keeps_latchesAtEnd {i : Instr} (hsci : i ≠ .sci) (hrci : i ≠ .rci) (hlbi : ∀ n, i ≠ .lbi n) :
    Keeps latchesAtEnd (t0Action i) := by
  have hdone : Keeps latchesAtEnd (.done .one) := by rintro t u k ⟨⟩; rfl
  have hunmapped : Keeps latchesAtEnd .unmapped := by rintro t u k ⟨⟩
  have hskip : Keeps latchesAtEnd (.skipRequest (.done .one)) := by rintro t u k ⟨⟩; rfl
  have hjump : Keeps latchesAtEnd (.readOp fun o => .pcLoad o.toNat (.done .one)) := by rintro t u k ⟨⟩; rfl
  have hcall : Keeps latchesAtEnd (.readPc fun ret => .push ret (.readOp fun o => .pcLoad o.toNat (.done .one))) :=
    fun t => keeps_push hjump t
  cases i with
  | sci => exact absurd rfl hsci
  | rci => exact absurd rfl hrci
  | lbi n => exact absurd rfl (hlbi n)
  | byte _ => exact hunmapped
  | prefix2 _ _ => exact fun t => keeps_ite hunmapped hdone t
  | skc | skaz => exact fun t => keeps_ite hskip hdone t
  | jmp _ => exact fun t => keeps_ite hjump hdone t
  | call _ => exact fun t => keeps_ite hcall hdone t
  | st => exact fun t => keeps_dataWrite hdone t
  | ld => exact keeps_dataRead fun _ => by rintro t u k ⟨⟩; rfl
  | adc => exact fun t => keeps_dataRead (fun _ => by rintro t u k ⟨⟩; rfl) t
  | _ => rintro t u k ⟨⟩; rfl

/-- An immediate write of one latch leaves the other alone, so for the carry `LBI` is a row like any other. -/
theorem t0Action_keeps_carryAtEnd {i : Instr} (hsci : i ≠ .sci) (hrci : i ≠ .rci) : Keeps carryAtEnd (t0Action i) := by
  by_cases hlbi : ∃ n, i = .lbi n
  · obtain ⟨n, rfl⟩ := hlbi
    rintro t u k ⟨⟩
    rfl
  · intro t u k h
    exact congrArg Prod.fst (t0Action_keeps_latchesAtEnd hsci hrci (not_exists.mp hlbi) t u k h)

theorem t0Action_keeps_ramAddrAtEnd {i : Instr} (hlbi : ∀ n, i ≠ .lbi n) : Keeps ramAddrAtEnd (t0Action i) := by
  by_cases hcarry : i = .sci ∨ i = .rci
  · obtain rfl | rfl := hcarry
    all_goals rintro t u k ⟨⟩; rfl
  · obtain ⟨hsci, hrci⟩ := not_or.mp hcarry
    intro t u k h
    exact congrArg Prod.snd (t0Action_keeps_latchesAtEnd hsci hrci hlbi t u k h)

/-! ### The committed latches over a slot (R181, R183, R188) -/

theorem executedSlot_c {byte : Byte} {x : Action} {s t : State} (hx : Keeps carryAtEnd x)
    (h : executedSlot byte x s = .next t) : t.c = committedCarry s := by
  obtain ⟨u, k, hperform, rfl⟩ := executedSlot_next_iff.mp h
  calc (endSlot (costCycles k) u).c = carryAtEnd u := endSlot_c _ _
    _ = carryAtEnd (beginSlot byte s) := hx _ u k hperform
    _ = committedCarry s := carryAtEnd_beginSlot byte s

theorem executedSlot_ramAddr {byte : Byte} {x : Action} {s t : State} (hx : Keeps ramAddrAtEnd x)
    (h : executedSlot byte x s = .next t) : t.ramAddr = committedRamAddr s := by
  obtain ⟨u, k, hperform, rfl⟩ := executedSlot_next_iff.mp h
  calc (endSlot (costCycles k) u).ramAddr = ramAddrAtEnd u := endSlot_ramAddr _ _
    _ = ramAddrAtEnd (beginSlot byte s) := hx _ u k hperform
    _ = committedRamAddr s := ramAddrAtEnd_beginSlot byte s

/-- A suppressed slot commits like any other (R145, R196). -/
theorem suppressedSlot_latches (byte : Byte) (s : State) :
    (suppressedSlot byte s).c = committedCarry s ∧ (suppressedSlot byte s).ramAddr = committedRamAddr s := by
  rw [suppressedSlot_eq]
  exact ⟨rfl, rfl⟩

theorem exec_c {i : Instr} {s t : State} (h : exec i s = .next t) (hrow : t0Row i = true) (hsci : i ≠ .sci)
    (hrci : i ≠ .rci) : t.c = committedCarry s := by
  rw [exec_t0Row i s hrow] at h
  exact executedSlot_c (t0Action_keeps_carryAtEnd hsci hrci) h

theorem exec_ramAddr {i : Instr} {s t : State} (h : exec i s = .next t) (hrow : t0Row i = true)
    (hlbi : ∀ n, i ≠ .lbi n) : t.ramAddr = committedRamAddr s := by
  rw [exec_t0Row i s hrow] at h
  exact executedSlot_ramAddr (t0Action_keeps_ramAddrAtEnd hlbi) h

/-- Settles O36: a row that makes no immediate write of a latch leaves to phase S5 what that latch will be. -/
theorem committedLatchesMoveOnlyByCommit : Obligations.CommittedLatchesMoveOnlyByCommit := by
  intro s t i hrow h
  exact ⟨fun hsci hrci => exec_c h hrow hsci hrci, fun hlbi => exec_ramAddr h hrow hlbi⟩

/-! ### Slots one after another (R193, R194) -/

theorem exec_sc_staged {s t : State} (h : exec .sc s = .next t) : t.cDelay = true ∧ t.cIn = 1#1 := by
  cases h
  simp [carryBit]

theorem exec_rc_staged {s t : State} (h : exec .rc s = .next t) : t.cDelay = true ∧ t.cIn = 0#1 := by
  cases h
  simp [carryBit]

theorem exec_lb_staged {n : Nibble} {s t : State} (h : exec (.lb n) s = .next t) :
    t.ramDelay = true ∧ t.ramAddrIn = n.toNat &&& s.cfg.dmask := by
  cases h
  simp [maskD]

/-- The write is the committed carry whatever was staged before it, and nothing stays staged (R186). -/
theorem exec_rci_carry {s t : State} (h : exec .rci s = .next t) : t.c = 0#1 ∧ t.cIn = 0#1 ∧ t.cDelay = false := by
  cases h
  simp [carryAtEnd, carryBit]

/-- The write is the committed data address whatever was staged before it, and nothing stays staged (R191). -/
theorem exec_lbi_ramAddr {n : Nibble} {s t : State} (h : exec (.lbi n) s = .next t) :
    t.ramAddr = n.toNat &&& s.cfg.dmask ∧ t.ramAddrIn = n.toNat &&& s.cfg.dmask ∧ t.ramDelay = false := by
  cases h
  simp [ramAddrAtEnd, maskD]

/-- Settles O38: each slot commits what the one before it staged, the first slot nothing. -/
theorem backToBackDelayedWrites : Obligations.BackToBackDelayedWrites := by
  intro s s1 s2 s3 n n' hcarryIdle hramIdle
  refine ⟨fun h1 h2 h3 => ?carry, fun h1 h2 h3 => ?ramAddr⟩
  case carry =>
    obtain ⟨hdue1, hin1⟩ := exec_sc_staged h1
    obtain ⟨hdue2, hin2⟩ := exec_rc_staged h2
    refine ⟨?_, ?_, ?_⟩
    · rw [exec_c h1 rfl nofun nofun, committedCarry_of_idle hcarryIdle]
    · rw [exec_c h2 rfl nofun nofun, committedCarry_of_staged hdue1, hin1]
    · rw [exec_c h3 rfl nofun nofun, committedCarry_of_staged hdue2, hin2]
  case ramAddr =>
    obtain ⟨hdue1, hin1⟩ := exec_lb_staged h1
    obtain ⟨hdue2, hin2⟩ := exec_lb_staged h2
    refine ⟨?_, ?_, ?_⟩
    · rw [exec_ramAddr h1 rfl nofun, committedRamAddr_of_idle hramIdle]
    · rw [exec_ramAddr h2 rfl nofun, committedRamAddr_of_staged hdue1, hin1]
    · rw [exec_ramAddr h3 rfl nofun, committedRamAddr_of_staged hdue2, hin2, exec_cfg h1]

/-- Settles O39: an immediate write leaves its own value, whatever the slot before staged; the address is masked by the
configuration, which that slot keeps. -/
theorem immediateWriteDiscardsStaged : Obligations.ImmediateWriteDiscardsStaged := by
  intro s s1 s2 n n'
  refine ⟨fun _ h2 => exec_rci_carry h2, fun h1 h2 => ?_⟩
  rw [← exec_cfg h1]
  exact exec_lbi_ramAddr h2

/-! ### The law for a whole step (R181, R196) -/

/-- The instruction whose row T0's `execute_one` runs for `byte`, where `before` was fetched in the slot before (R240). -/
def t0RowAt (before byte : Byte) : Instr := if t0IsPrefix before then t0Pair before byte else t0Pair byte 0x00#8

/-- A one-byte row runs only where its byte is fetched and the byte before is no first byte. -/
theorem t0RowAt_of_encode_single {before byte b : Byte} (h : encode (t0RowAt before byte) = [b]) :
    t0IsPrefix before = false ∧ byte = b := by
  unfold t0RowAt at h
  cases hbefore : t0IsPrefix before with
  | true => simp [hbefore, encode_t0Pair_classP byte hbefore] at h
  | false =>
    cases hbyte : t0IsPrefix byte with
    | true => simp [hbefore, encode_t0Pair_classP 0x00#8 hbyte] at h
    | false => simpa [hbefore, encode_t0Pair_classN byte hbyte] using h

/-- The bytes of `LBI`: its high nibble is 3 (R260). -/
theorem lbi_byte_range (n : Nibble) : 0x30#8 ≤ 0x3#4 ++ n ∧ 0x3#4 ++ n ≤ 0x3F#8 := by
  revert n
  decide

theorem t0RowAt_ne_lbi {before byte : Byte} (h : t0IsPrefix before = true ∨ byte < 0x30#8 ∨ 0x3F#8 < byte) (n : Nibble) :
    t0RowAt before byte ≠ .lbi n := by
  intro hrow
  obtain ⟨hbefore, rfl⟩ := t0RowAt_of_encode_single (congrArg encode hrow)
  obtain ⟨hlow, hhigh⟩ := lbi_byte_range n
  obtain hprefix | hbelow | habove := h
  · simp [hbefore] at hprefix
  · exact absurd hlow (BitVec.not_le.mpr hbelow)
  · exact absurd hhigh (BitVec.not_le.mpr habove)

theorem t0RowAt_ne_of_byte {before byte b : Byte} {i : Instr} (hencode : encode i = [b])
    (h : t0IsPrefix before = true ∨ byte ≠ b) : t0RowAt before byte ≠ i := by
  rintro rfl
  obtain ⟨hbefore, hbyte⟩ := t0RowAt_of_encode_single hencode
  obtain hprefix | hne := h
  · simp [hbefore] at hprefix
  · exact hne hbyte

/-- A completed step under T0 executed the row of the byte at `pc`, or suppressed that byte. -/
theorem step_next_t0 {s t : State} (hvariant : s.cfg.variant = .t0) (hcount : s.skipCount = 0) (h : step s = .next t) :
    executedSlot (readByte s.prog s.pc) (t0Action (t0RowAt s.op (readByte s.prog s.pc))) s = .next t := by
  obtain ⟨byte, hfetch, ⟨-, hslot⟩ | ⟨hpending, -⟩⟩ := step_next_core h
  · obtain rfl := fetchByte_eq_some hfetch
    rw [hvariant] at hslot
    exact (executedSlot_t0 _ s).symm.trans hslot
  · exact absurd hcount hpending

theorem step_suppressed_latches {s t : State} (hcount : s.skipCount ≠ 0) (h : step s = .next t) :
    t.c = committedCarry s ∧ t.ramAddr = committedRamAddr s := by
  obtain ⟨byte, -, ⟨hnone, -⟩ | ⟨-, rfl⟩⟩ := step_next_core h
  · exact absurd hnone hcount
  · exact suppressedSlot_latches byte s

theorem step_c {s t : State} (h : step s = .next t)
    (hslot : s.skipCount ≠ 0 ∨ (s.cfg.variant = .t0 ∧
      (t0IsPrefix s.op = true ∨ (readByte s.prog s.pc ≠ 0x06#8 ∧ readByte s.prog s.pc ≠ 0x07#8)))) :
    t.c = committedCarry s := by
  by_cases hcount : s.skipCount = 0
  · obtain hpending | ⟨hvariant, hbyte⟩ := hslot
    · exact absurd hcount hpending
    · have hsci : t0RowAt s.op (readByte s.prog s.pc) ≠ .sci := t0RowAt_ne_of_byte rfl (hbyte.imp_right And.left)
      have hrci : t0RowAt s.op (readByte s.prog s.pc) ≠ .rci := t0RowAt_ne_of_byte rfl (hbyte.imp_right And.right)
      exact executedSlot_c (t0Action_keeps_carryAtEnd hsci hrci) (step_next_t0 hvariant hcount h)
  · exact (step_suppressed_latches hcount h).1

theorem step_ramAddr {s t : State} (h : step s = .next t)
    (hslot : s.skipCount ≠ 0 ∨ (s.cfg.variant = .t0 ∧
      (t0IsPrefix s.op = true ∨ readByte s.prog s.pc < 0x30#8 ∨ 0x3F#8 < readByte s.prog s.pc))) :
    t.ramAddr = committedRamAddr s := by
  by_cases hcount : s.skipCount = 0
  · obtain hpending | ⟨hvariant, hbyte⟩ := hslot
    · exact absurd hcount hpending
    · exact executedSlot_ramAddr (t0Action_keeps_ramAddrAtEnd (t0RowAt_ne_lbi hbyte))
        (step_next_t0 hvariant hcount h)
  · exact (step_suppressed_latches hcount h).2

/-- An executed slot of any variant whose call leaves a commit due ends with the staged value committed: no call makes a
commit due, nor changes the value it will commit. -/
theorem step_of_due {s t : State} {u : Slot} {k : Cost} (hcount : s.skipCount = 0) (h : step s = .next t)
    (hperform : perform (contractOf s.cfg.variant).executeOne (beginSlot (readByte s.prog s.pc) s) = .next (u, k)) :
    (u.cDue = true → s.cDelay = true ∧ t.c = s.cIn) ∧ (u.rDue = true → s.ramDelay = true ∧ t.ramAddr = s.ramAddrIn) := by
  obtain ⟨byte, hfetch, ⟨-, hslot⟩ | ⟨hpending, -⟩⟩ := step_next_core h
  · obtain rfl := fetchByte_eq_some hfetch
    obtain ⟨u', k', hperform', rfl⟩ := executedSlot_next_iff.mp hslot
    cases hperform.symm.trans hperform'
    obtain ⟨hcValue, hrValue, hcDue, hrDue⟩ := perform_due hperform
    obtain ⟨hcBegin, hcValueBegin, hrBegin, hrValueBegin⟩ := beginSlot_due (readByte s.prog s.pc) s
    refine ⟨fun hdue => ⟨hcBegin ▸ hcDue hdue, ?_⟩, fun hdue => ⟨hrBegin ▸ hrDue hdue, ?_⟩⟩
    · rw [endSlot_c, carryAtEnd, if_pos hdue, hcValue, hcValueBegin]
    · rw [endSlot_ramAddr, ramAddrAtEnd, if_pos hdue, hrValue, hrValueBegin]
  · exact absurd hcount hpending

/-- Settles O37: `SC` moves no committed carry and leaves 1 staged, which the law for a step then commits; and that law
is the suppressed slot's, T0's and that of a commit left due. -/
theorem delayedCarryLandsOneSlotLate : Obligations.DelayedCarryLandsOneSlotLate := by
  refine ⟨?afterSc, fun s t _ h => ⟨step_c h, step_ramAddr h, fun u k hcount => step_of_due hcount h⟩⟩
  case afterSc =>
    intro s s1 s2 _ hvariant hidle h1 h2
    obtain ⟨hdue, hin⟩ := exec_sc_staged h1
    have hvariant1 : s1.cfg.variant = .t0 := by rw [exec_cfg h1, hvariant]
    refine ⟨?_, fun hslot => ?_⟩
    · rw [exec_c h1 rfl nofun nofun, committedCarry_of_idle hidle]
    · rw [step_c h2 (hslot.imp_right fun hbyte => ⟨hvariant1, .inr hbyte⟩), committedCarry_of_staged hdue, hin]

/-! ### The primitives of the two latches (R184 to R191) -/

/-- The low bit of an operand is its bit 0 (R185, R186). -/
theorem ofNat_and_one (v : Nat) : BitVec.ofNat 1 (v &&& 1) = carryBit v := by
  apply BitVec.eq_of_toNat_eq
  simp [carryBit, Nat.and_one_is_mod]

/-- Settles O57: each access is one equation of `perform`; the bit written is bit 0 of the operand. -/
theorem carryPrimitives : Obligations.CarryPrimitives := by
  intro t v k f
  rw [ofNat_and_one]
  exact ⟨rfl, rfl, rfl, rfl⟩

/-- Settles O58: each access is one equation of `perform`. -/
theorem ramAddrPrimitives : Obligations.RamAddrPrimitives :=
  fun _ _ _ _ => ⟨rfl, rfl, rfl⟩

end Sys2Proof.Machine
end

section
/-! The Decode Contract (44_decode_contract.md R219 to R230): what the agreement of a variant's two operations makes of each
executed slot of a run, and the accesses of `execute_one` to the data port, the segment port and the private state. -/

namespace Sys2Proof.Machine

/-! ### The run of an agreeing variant (R219, R222) -/

theorem Reached.inv {s t : State} {second : Bool} (hinv : s.Inv) (h : Reached s t second) : t.Inv := by
  induction h with
  | start => exact hinv
  | slot _ hstep ih => exact step_inv ih hstep

/-- With no skip pending the core hands the byte at `pc` to the variant's `execute_one` (R112, R117). -/
theorem step_eq_executeOne {s : State} (hinv : s.Inv) (hcount : s.skipCount = 0) :
    step s = executedSlot (nextByte s) (contractOf s.cfg.variant).executeOne s := by
  obtain ⟨⟨hpc, -⟩, -⟩ := hinv
  simp [stepIsTheCoreSlot s, coreSlot, fetchByte_of_le hpc, hcount, nextByte]

/-- Each executed slot of an agreeing variant's run does what the variant's instructions do with its byte where it
stands; the variant is that of any state of the run. -/
theorem step_of_agreeing {s t : State} {second : Bool} {v : Variant} (hinv : s.Inv) (hagrees : s.Agrees)
    (hreached : Reached s t second) (hvariant : t.cfg.variant = v) (hcount : t.skipCount = 0) :
    step t = executedSlot (nextByte t) ((contractOf v).byPosition second) t := by
  subst hvariant
  calc step t
      = executedSlot (nextByte t) (contractOf t.cfg.variant).executeOne t :=
        step_eq_executeOne (hreached.inv hinv) hcount
    _ = executedSlot (nextByte t) ((contractOf t.cfg.variant).byPosition second) t :=
        executedSlot_of_agreesAt (hagrees t second hreached) hcount

theorem secondFollows_of_executed {s : State} (second : Bool) (hcount : s.skipCount = 0) :
    secondFollows second s = (!second && opIsPrefix s.cfg.variant (nextByte s)) := by
  simp [secondFollows, hcount]

/-- Settles O60: `t` and `u` are boundaries of the run, and the slot between them says in which position the byte of `u`
stands. -/
theorem agreeingVariantPairsBytes : Obligations.AgreeingVariantPairsBytes := by
  intro s t u second hinv hagrees hreached hstep
  have hreachedNext : Reached s u (secondFollows second t) := .slot hreached hstep
  have hvariant : u.cfg.variant = t.cfg.variant := by rw [step_cfg hstep]
  refine ⟨?executed, ?afterExecuted, ?afterSuppressed⟩
  case executed =>
    intro hcount
    exact (step_of_agreeing hinv hagrees hreached rfl hcount).symm.trans hstep
  case afterExecuted =>
    intro hcount hcountNext
    rw [secondFollows_of_executed second hcount] at hreachedNext
    exact step_of_agreeing hinv hagrees hreachedNext hvariant hcountNext
  case afterSuppressed =>
    intro hcount hcountNext
    rw [secondFollows_of_suppressed second hcount] at hreachedNext
    exact step_of_agreeing hinv hagrees hreachedNext hvariant hcountNext

/-! ### The data port (R228, R229) -/

/-- No location of data space lies above DMASK (R64). -/
theorem dataAddress_of_gt {s : State} (h : s.cfg.dmask < s.ramAddr) : dataAddress s = none := by
  simp [dataAddress, h]

/-- Settles O54: both accesses go by `dataAddress`, which is `ram_addr` inside data space and nothing above it. -/
theorem dataPortPrimitives : Obligations.DataPortPrimitives := by
  intro t v f k
  refine ⟨fun hinside => ?inside, fun houtside => ?outside⟩
  case inside =>
    have haddr : dataAddress t.st = some t.st.ramAddr := dataAddress_of_le hinside
    exact ⟨by simp only [perform, haddr], by simp only [perform, haddr]; rfl⟩
  case outside =>
    have haddr : dataAddress t.st = none := dataAddress_of_gt houtside
    exact ⟨by simp only [perform, haddr], by simp only [perform, haddr]⟩

/-! ### The segment port and the private state (R220, R230) -/

theorem perform_segLookup_of_port {t : Slot} (v : Nat) (f : Nat → Action) (h : t.st.cfg.hasSeg = true) :
    perform (.segLookup v f) t = perform (f (Config.seg v)) t := by
  simp [perform, h]

theorem perform_segLookup_of_no_port {t : Slot} (v : Nat) (f : Nat → Action) (h : t.st.cfg.hasSeg = false) :
    perform (.segLookup v f) t = .refused .noSegmentPort := by
  simp [perform, h]

/-- Settles O56: the lookup goes by `HAS_SEG`; each access to the private state is one equation of `perform`. -/
theorem segmentLookupNeedsThePort : Obligations.SegmentLookupNeedsThePort :=
  fun _ v f _ _ _ => ⟨perform_segLookup_of_port v f, perform_segLookup_of_no_port v f, rfl, rfl⟩

end Sys2Proof.Machine
end

section
/-! The result of each row of T0 (45_reference_variant_t0.md R242 to R264). Phases S5 and S6 move three fields and no more,
so the slot of a call that completes is one record: what the call left, with the latches committed and the cost charged.
Each row is then the call it makes. -/

namespace Sys2Proof.Machine

/-! ### The slot of a call that completes -/

/-- Phases S5 and S6 write the two committed latches and the budget, and nothing else (R118, R183, R188). -/
theorem endSlot_eq (n : Int) (t : Slot) :
    endSlot n t = { t.st with c := carryAtEnd t, ramAddr := ramAddrAtEnd t, icount := t.st.icount - n } := by
  simp only [endSlot, charge, commit, commitCarry, commitRamAddr, carryAtEnd, ramAddrAtEnd]
  split_ifs <;> rfl

theorem executedSlot_of_perform {byte : Byte} {x : Action} {s u : State} {t : Slot} {k : Cost}
    (h : perform x (beginSlot byte s) = .next (t, k))
    (hu : { t.st with c := carryAtEnd t, ramAddr := ramAddrAtEnd t, icount := t.st.icount - costCycles k } = u) :
    executedSlot byte x s = .next u :=
  executedSlot_next_iff.mpr ⟨t, k, h, (endSlot_eq _ t).trans hu⟩

theorem exec_of_perform {i : Instr} {s u : State} {t : Slot} {k : Cost} (hrow : t0Row i = true)
    (h : perform (t0Action i) (beginSlot (slotByte i s.op) s) = .next (t, k))
    (hu : { t.st with c := carryAtEnd t, ramAddr := ramAddrAtEnd t, icount := t.st.icount - costCycles k } = u) :
    exec i s = .next u :=
  (exec_t0Row i s hrow).trans (executedSlot_of_perform h hu)

theorem executedSlot_done (byte : Byte) (k : Cost) (s : State) :
    executedSlot byte (.done k) s = .next (plainSlot byte (costCycles k) s) :=
  executedSlot_of_perform rfl rfl

theorem executedSlot_skipRequest (byte : Byte) (k : Cost) (s : State) :
    executedSlot byte (.skipRequest (.done k)) s =
      .next { plainSlot byte (costCycles k) s with skip := true, skipCount := 1 } :=
  executedSlot_of_perform rfl rfl

/-! ### The bytes of a row with an operand (R258 to R263) -/

theorem append_nibble (high n : Nibble) : high ++ n = BitVec.ofNat 8 (16 * high.toNat + n.toNat) := by
  apply BitVec.eq_of_toNat_eq
  have hlow : n.toNat < 2 ^ 4 := n.isLt
  have hhigh : high.toNat < 2 ^ 4 := high.isLt
  rw [BitVec.toNat_append, ← Nat.shiftLeft_add_eq_or_of_lt hlow, Nat.shiftLeft_eq, BitVec.toNat_ofNat]
  omega

theorem zero_append_address (aa : BitVec 7) : (0#1 ++ aa : Byte) = BitVec.ofNat 8 aa.toNat := by
  apply BitVec.eq_of_toNat_eq
  have haa : aa.toNat < 2 ^ 7 := aa.isLt
  rw [BitVec.toNat_append, ← Nat.shiftLeft_add_eq_or_of_lt haa, BitVec.toNat_ofNat]
  simp
  omega

theorem toNat_address (aa : BitVec 7) : (BitVec.ofNat 8 aa.toNat).toNat = aa.toNat := by
  have haa : aa.toNat < 2 ^ 7 := aa.isLt
  rw [BitVec.toNat_ofNat]
  omega

/-! ### Rows that touch no register (R242 to R249) -/

/-- Settles O15: both calls only return their cost. -/
theorem nopResults : Obligations.NopResults :=
  fun s => ⟨executedSlot_done 0x00#8 .one s, executedSlot_done 0x01#8 .two s⟩

/-- The call of `SKC` sees the carry as it was when the slot began: the commit comes after it (R183, R245). -/
theorem exec_skc (s : State) :
    exec .skc s = executedSlot 0x03#8 (if s.c = 1#1 then .skipRequest (.done .one) else .done .one) s := rfl

theorem exec_skaz (s : State) :
    exec .skaz s = executedSlot 0x0E#8 (if s.a = 0#4 then .skipRequest (.done .one) else .done .one) s := rfl

/-- Settles O16: each row makes a request or none, as its test has it. -/
theorem skipInstructionResults : Obligations.SkipInstructionResults := by
  intro s
  rw [exec_skc, exec_skaz]
  refine ⟨executedSlot_skipRequest _ _ s, fun hc => ?carry, fun hc => ?noCarry, fun ha => ?zero, fun ha => ?nonzero⟩
  case carry => rw [if_pos hc]; exact executedSlot_skipRequest _ _ s
  case noCarry => rw [if_neg hc]; exact executedSlot_done _ _ s
  case zero => rw [if_pos ha]; exact executedSlot_skipRequest _ _ s
  case nonzero => rw [if_neg ha]; exact executedSlot_done _ _ s

/-- Settles O17: the delayed writes leave a due commit to phase S5, the immediate ones have cancelled it. -/
theorem carryInstructionResults : Obligations.CarryInstructionResults :=
  fun _ => ⟨exec_of_perform rfl rfl rfl, exec_of_perform rfl rfl rfl, exec_of_perform rfl rfl rfl,
    exec_of_perform rfl rfl rfl⟩

/-! ### Returns (R250, R251) -/

theorem exec_ret (s : State) :
    exec .ret s = .next { plainSlot 0x08#8 1 s with pc := maskP s.cfg (popped s), sp := countDown s.sp } :=
  exec_of_perform rfl rfl rfl

theorem exec_retsk (s : State) :
    exec .retsk s = .next { plainSlot 0x09#8 2 s with
      pc := maskP s.cfg (popped s), sp := countDown s.sp, skip := true, skipCount := 1 } :=
  exec_of_perform rfl rfl rfl

/-- Settles O18: the pop takes the newer register when two levels are held and the older one otherwise. -/
theorem returnResults : Obligations.ReturnResults := by
  intro s
  rw [exec_ret, exec_retsk]
  refine ⟨fun hfull => ?full, fun hsp => ?notFull⟩
  case full =>
    rw [popped_of_full hfull, countDown_eq, if_pos hfull]
    exact ⟨rfl, rfl⟩
  case notFull =>
    have hnotFull : s.sp ≠ 2 := by obtain h | h := hsp <;> simp [h]
    rw [popped_of_not_full hnotFull, countDown_eq, if_neg hnotFull]
    exact ⟨rfl, rfl⟩

/-! ### The data port (R252, R253) -/

theorem perform_dataRead {t : Slot} (k : Byte → Action) (h : t.st.ramAddr ≤ t.st.cfg.dmask) :
    perform (.dataRead k) t = perform (k (readByte t.st.data t.st.ramAddr)) t := by
  simp only [perform, dataAddress_of_le h]

theorem perform_dataWrite {t : Slot} (v : Byte) (k : Action) (h : t.st.ramAddr ≤ t.st.cfg.dmask) :
    perform (.dataWrite v k) t = perform k (t.with (dataWrite t.st.ramAddr v t.st)) := by
  simp only [perform, dataAddress_of_le h]

theorem lowNibble_eq (v : Byte) : lowNibble v = BitVec.ofNat 4 v.toNat := by
  apply BitVec.eq_of_toNat_eq
  simp [lowNibble]

theorem nibbleByte_eq (v : Nibble) : nibbleByte v = BitVec.ofNat 8 v.toNat := by
  apply BitVec.eq_of_toNat_eq
  simp [nibbleByte]

/-- Settles O19: the read is of the committed address, since the commit comes after the call. -/
theorem loadResult : Obligations.LoadResult := by
  intro s h
  rw [← lowNibble_eq]
  exact exec_of_perform rfl (perform_dataRead (t := beginSlot 0x0A#8 s) _ h) rfl

theorem dataAddress_eq_some_iff {s : State} {addr : Nat} :
    dataAddress s = some addr ↔ s.ramAddr ≤ s.cfg.dmask ∧ s.ramAddr = addr := by
  simp [dataAddress]

theorem exec_st {s : State} (h : s.ramAddr ≤ s.cfg.dmask) :
    exec .st s = .next { plainSlot 0x0B#8 1 s with data := writeByte s.data s.ramAddr (nibbleByte s.a) } :=
  exec_of_perform rfl (perform_dataWrite (t := beginSlot 0x0B#8 s) _ _ h) rfl

/-- Settles O20: the new data memory is the old one with one byte written. -/
theorem storeResult : Obligations.StoreResult := by
  intro s addr haddr w
  obtain ⟨hinside, rfl⟩ := dataAddress_eq_some_iff.mp haddr
  refine ⟨rfl, _, exec_st hinside, ?_, fun x hx => readByte_writeByte_other _ hx⟩
  rw [readByte_writeByte_same _ _ w, nibbleByte_eq]

/-! ### Registers (R254, R255, R257, R258, R261, R264) -/

theorem exec_lai (n : Nibble) (s : State) : exec (.lai n) s = .next { plainSlot (0x1#4 ++ n) 1 s with a := n } :=
  exec_of_perform rfl rfl rfl

/-- Settles O21: each call reads the registers of the slot's beginning, in which `prev2_a` is the accumulator at the
start of the slot before. -/
theorem accumulatorMoveResults : Obligations.AccumulatorMoveResults := by
  intro s n
  refine ⟨exec_of_perform rfl rfl rfl, exec_of_perform rfl rfl rfl, ?lai, exec_of_perform rfl rfl rfl⟩
  case lai => exact (exec_lai n s).trans (by rw [append_nibble]; rfl)

theorem sum5_toNat (x y : Nibble) (carry : Bit) : (sum5 x y carry).toNat = x.toNat + y.toNat + carry.toNat := by
  have hx : x.toNat < 2 ^ 4 := x.isLt
  have hy : y.toNat < 2 ^ 4 := y.isLt
  have hcarry : carry.toNat < 2 ^ 1 := carry.isLt
  simp only [sum5, BitVec.toNat_add, BitVec.toNat_setWidth]
  omega

theorem sumNibble_eq (t : BitVec 5) : sumNibble t = BitVec.ofNat 4 t.toNat := by
  apply BitVec.eq_of_toNat_eq
  simp [sumNibble]

theorem carryBit_sumCarry (t : BitVec 5) : carryBit (sumCarry t) = BitVec.ofNat 1 (t.toNat / 16) := by
  apply BitVec.eq_of_toNat_eq
  simp [carryBit, sumCarry, Nat.shiftRight_eq_div_pow]

/-- A sum's low four bits to `a`, its fifth bit staged, as both additions end (R257, R261). -/
theorem executedSlot_sum (byte : Byte) (x y : Nibble) (carry : Bit) (s : State) :
    executedSlot byte
        (.writeA (sumNibble (sum5 x y carry)) (.carryWriteDelayed (sumCarry (sum5 x y carry)) (.done .one))) s =
      .next { plainSlot byte 1 s with
        a := BitVec.ofNat 4 (x.toNat + y.toNat + carry.toNat)
        cIn := BitVec.ofNat 1 ((x.toNat + y.toNat + carry.toNat) / 16)
        cDelay := true } := by
  rw [← sum5_toNat, ← sumNibble_eq, ← carryBit_sumCarry]
  exact executedSlot_of_perform rfl rfl

theorem exec_adi (n : Nibble) (s : State) :
    exec (.adi n) s = executedSlot (0x4#4 ++ n)
      (.writeA (sumNibble (sum5 s.a n 0#1)) (.carryWriteDelayed (sumCarry (sum5 s.a n 0#1)) (.done .one))) s := rfl

/-- The call of `ADC` sees the staged carry, committed or not (R184, R257). -/
theorem exec_adc {s : State} (h : s.ramAddr ≤ s.cfg.dmask) :
    exec .adc s = executedSlot 0x0F#8
      (.writeA (sumNibble (sum5 s.a (lowNibble (readByte s.data s.ramAddr)) s.cIn))
        (.carryWriteDelayed (sumCarry (sum5 s.a (lowNibble (readByte s.data s.ramAddr)) s.cIn)) (.done .one))) s := by
  have hread := perform_dataRead (t := beginSlot 0x0F#8 s)
    (fun v => .carryInRead fun ci => .writeA (sumNibble (sum5 s.a (lowNibble v) ci))
      (.carryWriteDelayed (sumCarry (sum5 s.a (lowNibble v) ci)) (.done .one))) h
  exact (executedSlot_of_perform hread rfl).trans (executedSlot_of_perform rfl rfl).symm

/-- Settles O22: `ADI` adds no carry, `ADC` the data nibble and the incoming one. -/
theorem additionResults : Obligations.AdditionResults := by
  intro s n
  refine ⟨?adi, fun hinside => ?adc⟩
  case adi =>
    rw [exec_adi, append_nibble]
    exact executedSlot_sum _ _ _ 0#1 s
  case adc =>
    have hnibble : (lowNibble (readByte s.data s.ramAddr)).toNat = (readByte s.data s.ramAddr).toNat % 16 := by
      rw [lowNibble_eq, BitVec.toNat_ofNat]
    rw [exec_adc hinside, executedSlot_sum, hnibble]

/-! ### The data address (R259, R260) -/

/-- Settles O23: `LB` leaves a due commit to phase S5, `LBI` has cancelled it. -/
theorem dataAddressLoadResults : Obligations.DataAddressLoadResults := by
  intro s n
  have hlb : BitVec.ofNat 8 (0x20 + n.toNat) = 0x2#4 ++ n := (append_nibble 0x2#4 n).symm
  have hlbi : BitVec.ofNat 8 (0x30 + n.toNat) = 0x3#4 ++ n := (append_nibble 0x3#4 n).symm
  rw [hlb, hlbi]
  exact ⟨exec_of_perform rfl rfl rfl, exec_of_perform rfl rfl rfl⟩

end Sys2Proof.Machine
end

section
/-! The two-byte rows of T0 (45_reference_variant_t0.md R262, R263, R265): in each slot of `JMP` and `CALL` the test of
`prev_op` has one answer, and the generic pair under T0 is the same test with no second half. Programs of them follow. -/

namespace Sys2Proof.Machine

/-! ### JMP (R262) -/

/-- The byte the slot fetches and the half of the call it runs both go by the byte fetched before. -/
theorem exec_jmp (aa : BitVec 7) (s : State) :
    exec (.jmp aa) s = executedSlot (if s.op = 0x80#8 then 0#1 ++ aa else 0x80#8)
      (if s.op = 0x80#8 then .readOp fun o => .pcLoad o.toNat (.done .one) else .done .one) s := rfl

/-- Loading the program counter with a second byte goes to its address, masked (R216). -/
theorem maskP_secondByte (g : Config) (aa : BitVec 7) :
    maskP g (BitVec.ofNat 8 aa.toNat).toNat = aa.toNat &&& g.pmask := by
  rw [toNat_address, maskP]

/-- Settles O24: the two answers of the test. -/
theorem jumpResults : Obligations.JumpResults := by
  intro s aa
  rw [exec_jmp]
  refine ⟨fun hfirst => ?first, fun hsecond => ?second⟩
  case first =>
    rw [if_neg hfirst, if_neg hfirst]
    exact executedSlot_done _ .one s
  case second =>
    rw [if_pos hsecond, if_pos hsecond, zero_append_address, ← maskP_secondByte]
    exact executedSlot_of_perform rfl rfl

/-! ### CALL (R263) -/

theorem exec_call (aa : BitVec 7) (s : State) :
    exec (.call aa) s = executedSlot (if s.op = 0x81#8 then 0#1 ++ aa else 0x81#8)
      (if s.op = 0x81#8 then .readPc fun ret => .push ret (.readOp fun o => .pcLoad o.toNat (.done .one))
        else .done .one) s := rfl

/-- The operand of a push is masked once more by the push itself (R161). -/
theorem push_maskP (v : Nat) (s : State) : push (maskP s.cfg v) s = push v s := by
  simp [push, maskP]

/-- A push inside a slot can be done after it: phases S5 and S6 neither read nor write the stack. -/
theorem endSlot_push (n : Int) (v : Nat) (t : Slot) : endSlot n (t.with (push v t.st)) = push v (endSlot n t) := by
  simp only [endSlot_eq, push, slot_with_st]
  split_ifs <;> rfl

/-- The same of a load of the program counter. -/
theorem endSlot_pcLoad (n : Int) (v : Nat) (t : Slot) : endSlot n (t.with (pcLoad v t.st)) = pcLoad v (endSlot n t) := by
  rw [endSlot_eq, endSlot_eq]
  rfl

/-- The slot of a call's second byte pushes the address after it and goes to the byte's own value. -/
theorem executedSlot_pushLoad (byte : Byte) (s : State) :
    executedSlot byte (.readPc fun ret => .push ret (.readOp fun o => .pcLoad o.toNat (.done .one))) s =
      .next (pcLoad byte.toNat (push (s.pc + 1) (plainSlot byte 1 s))) := by
  have hop : (push (maskP s.cfg (s.pc + 1)) (beginSlot byte s).st).op = byte := by simp
  refine executedSlot_next_iff.mpr ⟨_, _, rfl, ?_⟩
  calc endSlot 1 (((beginSlot byte s).with (push (maskP s.cfg (s.pc + 1)) (beginSlot byte s).st)).with
        (pcLoad (push (maskP s.cfg (s.pc + 1)) (beginSlot byte s).st).op.toNat
          (push (maskP s.cfg (s.pc + 1)) (beginSlot byte s).st)))
      = pcLoad byte.toNat (push (maskP s.cfg (s.pc + 1)) (endSlot 1 (beginSlot byte s))) := by
        rw [hop, ← endSlot_push, ← endSlot_pcLoad]
        rfl
    _ = pcLoad byte.toNat (push (s.pc + 1) (plainSlot byte 1 s)) := by
        rw [endSlot_beginSlot]
        exact congrArg _ (push_maskP (s.pc + 1) (plainSlot byte 1 s))

theorem exec_call_second {s : State} (aa : BitVec 7) (h : s.op = 0x81#8) :
    exec (.call aa) s = .next
      { push (s.pc + 1) (plainSlot (BitVec.ofNat 8 aa.toNat) 1 s) with pc := aa.toNat &&& s.cfg.pmask } := by
  have hload : ∀ t : State, t.cfg = s.cfg →
      pcLoad (BitVec.ofNat 8 aa.toNat).toNat t = { t with pc := aa.toNat &&& s.cfg.pmask } := by
    intro t ht
    rw [pcLoad, maskP_secondByte, ht]
  rw [exec_call, if_pos h, if_pos h, zero_append_address, executedSlot_pushLoad, hload _ (by simp [plainSlot])]

/-- Settles O25: the first half does nothing; the second is a push at each of the three level counts. -/
theorem callResults : Obligations.CallResults := by
  intro s aa
  refine ⟨fun hfirst => ?first, fun hsecond hsp => ?empty, fun hsecond hsp => ?one, fun hsecond hsp => ?full⟩
  case first =>
    rw [exec_call, if_neg hfirst, if_neg hfirst]
    exact executedSlot_done _ .one s
  case empty =>
    rw [exec_call_second aa hsecond, push_of_empty (s := plainSlot _ 1 s) hsp]
    rfl
  case one =>
    rw [exec_call_second aa hsecond, push_of_one (s := plainSlot _ 1 s) hsp]
    rfl
  case full =>
    rw [exec_call_second aa hsecond, push_of_full (s := plainSlot _ 1 s) hsp, ← hsp]
    rfl

/-! ### The pair T0 has no instruction for (R265) -/

/-- Under T0 the slot of a generic row is the row that T0's `execute_one` selects for the byte fetched (R240). -/
theorem exec_genericRow_t0 {i : Instr} {s : State} (hvariant : s.cfg.variant = .t0) (h : t0Row i = false) :
    exec i s = executedSlot (slotByte i s.op) (t0Action (t0RowAt s.op (slotByte i s.op))) s := by
  rw [exec_genericRow i s h, hvariant]
  rfl

theorem slotByte_prefix2 (p q before : Byte) : slotByte (.prefix2 p q) before = if before = p then q else p := rfl

theorem executedSlot_unmapped (byte : Byte) (s : State) :
    executedSlot byte .unmapped s = .refused (.unmappedByte byte) := rfl

/-- Settles O28: the first slot runs the row of the prefix byte, whose test fails; the second runs the generic pair,
whose test succeeds. -/
theorem t0PrefixPairSlots : Obligations.T0PrefixPairSlots := by
  intro s p q hvariant hp
  rw [exec_genericRow_t0 hvariant rfl, slotByte_prefix2]
  refine ⟨fun hop => ?first, fun hsecond hq => ?second⟩
  case first =>
    have hne : s.op ≠ p := by
      rintro rfl
      simp [hop] at hp
    rw [if_neg hne, t0RowAt, hop, if_neg Bool.false_ne_true, t0_firstSlot _ hp hne, endSlot_beginSlot]
  case second =>
    have hrow : t0RowAt s.op q = .prefix2 p q := by rw [t0RowAt, hsecond, if_pos hp, (le_iff_t0Pair q hp).mp hq]
    have hcall : executedSlot q (t0Action (.prefix2 p q)) s =
        executedSlot q (if s.op = p then .unmapped else .done .one) s := rfl
    rw [if_pos hsecond, hrow, hcall, if_pos hsecond, executedSlot_unmapped]

/-! ### Words (R101) -/

/-- Settles O14: each word is evaluated. -/
theorem sampleWordsDecode : Obligations.SampleWordsDecode := by
  refine ⟨?_, ?_, ?_, ?_, ?_, ?_, ?_, ?_⟩ <;> decide

/-! ### Programs of two-byte rows (R69) -/

/-- A byte below 0x80 begins no two-byte instruction of T0. -/
theorem t0IsPrefix_of_lt {b : Byte} (h : b < 0x80#8) : t0IsPrefix b = false := by
  revert b
  decide

theorem secondByte_lt (aa : BitVec 7) : BitVec.ofNat 8 aa.toNat < 0x80#8 := by
  have haa : aa.toNat < 2 ^ 7 := aa.isLt
  rw [BitVec.lt_def, toNat_address]
  exact haa

theorem decode_jmp (aa : BitVec 7) : decode .t0 [0x80#8, BitVec.ofNat 8 aa.toNat] = .ok (.jmp aa, []) := by
  rw [← zero_append_address]
  exact decode_encode_t0Row (i := .jmp aa) rfl

theorem decode_call (aa : BitVec 7) : decode .t0 [0x81#8, BitVec.ofNat 8 aa.toNat] = .ok (.call aa, []) := by
  rw [← zero_append_address]
  exact decode_encode_t0Row (i := .call aa) rfl

/-- A T0 machine about to execute the byte at `pc`. -/
structure T0Ready (s : State) : Prop where
  variant : s.cfg.variant = .t0
  pc : s.pc ≤ s.cfg.pmask
  count : s.skipCount = 0

/-- In first-byte position the step runs what the byte and the one after it decode to. -/
theorem T0Ready.step_first {s : State} {i : Instr} {b c : Byte} {rest : List Byte} (ready : T0Ready s)
    (hop : t0IsPrefix s.op = false) (hb : readByte s.prog s.pc = b)
    (hc : readByte s.prog ((s.pc + 1) &&& s.cfg.pmask) = c) (hdecode : decode .t0 [b, c] = .ok (i, rest)) :
    step s = exec i s := by
  subst hb hc
  obtain ⟨hvariant, hpc, hcount⟩ := ready
  obtain ⟨hfirst, -⟩ := stepRunsDecodedInstruction s i rest hcount hpc
  rw [hvariant] at hfirst
  exact hfirst hop hdecode

/-- In second-byte position it runs what the byte before and this one decode to. -/
theorem T0Ready.step_second {s : State} {i : Instr} {p q : Byte} {rest : List Byte} (ready : T0Ready s)
    (hop : s.op = p) (hp : t0IsPrefix p = true) (hq : readByte s.prog s.pc = q)
    (hdecode : decode .t0 [p, q] = .ok (i, rest)) : step s = exec i s := by
  subst hop hq
  obtain ⟨hvariant, hpc, hcount⟩ := ready
  obtain ⟨-, hsecond⟩ := stepRunsDecodedInstruction s i rest hcount hpc
  rw [hvariant] at hsecond
  exact hsecond hp hdecode

/-- A plain slot leaves the next byte to be executed, at an address of program space. -/
theorem T0Ready.after_plainSlot {s : State} (ready : T0Ready s) (byte : Byte) (n : Int) : T0Ready (plainSlot byte n s) :=
  ⟨ready.variant, Nat.and_le_right, ready.count⟩

theorem ne_of_not_prefix {b p : Byte} (hb : t0IsPrefix b = false) (hp : t0IsPrefix p = true) : b ≠ p := by
  rintro rfl
  simp [hb] at hp

/-- Settles O52: the first slot is plain and leaves 0x80 in `op`, by which the second finds that it loads `pc`. -/
theorem jumpTakesTwoSlots : Obligations.JumpTakesTwoSlots := by
  rintro s aa ⟨⟨hpc, -⟩, -⟩ hvariant hcount hop hbyte hnext
  have ready : T0Ready s := ⟨hvariant, hpc, hcount⟩
  obtain ⟨hslot, -⟩ := jumpResults s aa
  obtain ⟨-, hslot'⟩ := jumpResults (plainSlot 0x80#8 1 s) aa
  have hfirst := (ready.step_first hop hbyte hnext (decode_jmp aa)).trans (hslot (ne_of_not_prefix hop rfl))
  have hsecond := ((ready.after_plainSlot 0x80#8 1).step_second rfl rfl hnext (decode_jmp aa)).trans (hslot' rfl)
  refine ⟨_, slots_succ_next_iff.mpr ⟨_, hfirst, (slots_one _).trans hsecond⟩, rfl, ?cost, ?_⟩
  case cost =>
    change s.icount - 1 - 1 = s.icount - 2
    omega
  exact ⟨rfl, rfl, rfl, rfl, rfl, rfl, rfl, rfl⟩

/-! ### A call and its return (R250, R263) -/

/-- Whatever the level count, a pop after a push returns what was pushed, masked (R161, R162). -/
theorem popped_push (v : Nat) (s : State) : popped (push v s) = maskP s.cfg v := by
  obtain hempty | hone | hfull : s.sp = 0 ∨ s.sp = 1 ∨ s.sp = 2 := by generalize s.sp = n; revert n; decide
  · rw [push_of_empty hempty]
    exact popped_of_not_full (by decide : (1 : Fin 3) ≠ 2)
  · rw [push_of_one hone]
    exact popped_of_full rfl
  · rw [push_of_full hfull]
    exact popped_of_full rfl

/-- Below two levels a pop after a push restores the level count (R166). -/
theorem countDown_countUp : ∀ n : Fin 3, n ≠ 2 → countDown (countUp n) = n := by decide

theorem decode_ret (c : Byte) : decode .t0 [0x08#8, c] = .ok (.ret, [c]) := rfl

/-- The machine after the two slots of `CALL aa`. -/
def called (aa : BitVec 7) (s : State) : State :=
  { push (((s.pc + 1) &&& s.cfg.pmask) + 1) (plainSlot (BitVec.ofNat 8 aa.toNat) 1 (plainSlot 0x81#8 1 s)) with
    pc := aa.toNat &&& s.cfg.pmask }

theorem called_frame (aa : BitVec 7) (s : State) :
    (called aa s).cfg = s.cfg ∧ (called aa s).prog = s.prog ∧ (called aa s).data = s.data ∧ (called aa s).a = s.a ∧
    (called aa s).b = s.b ∧ (called aa s).skipCount = s.skipCount ∧ (called aa s).op = BitVec.ofNat 8 aa.toNat ∧
    (called aa s).sp = countUp s.sp := by
  simp [called, plainSlot]

theorem popped_called (aa : BitVec 7) (s : State) :
    popped (called aa s) = (((s.pc + 1) &&& s.cfg.pmask) + 1) &&& s.cfg.pmask :=
  popped_push _ _

theorem T0Ready.slots_call {s : State} {aa : BitVec 7} (ready : T0Ready s) (hop : t0IsPrefix s.op = false)
    (hbyte : readByte s.prog s.pc = 0x81#8)
    (hnext : readByte s.prog ((s.pc + 1) &&& s.cfg.pmask) = BitVec.ofNat 8 aa.toNat) :
    slots 2 s = .next (called aa s) := by
  obtain ⟨hslot, -⟩ := callResults s aa
  have hfirst := (ready.step_first hop hbyte hnext (decode_call aa)).trans (hslot (ne_of_not_prefix hop rfl))
  have hsecond := ((ready.after_plainSlot 0x81#8 1).step_second rfl rfl hnext (decode_call aa)).trans
    (exec_call_second aa rfl)
  exact slots_succ_next_iff.mpr ⟨_, hfirst, (slots_one _).trans hsecond⟩

/-- Settles O53: the call leaves the address after it as the newest entry, and the return goes there. -/
theorem callThenReturnComesBack : Obligations.CallThenReturnComesBack := by
  rintro s aa ⟨⟨hpc, -⟩, -⟩ hvariant hcount hop hsp hbyte hnext htarget
  have ready : T0Ready s := ⟨hvariant, hpc, hcount⟩
  obtain ⟨hcfg, hprog, hdata, ha, hb, hcount', hop', hsp'⟩ := called_frame aa s
  have ready' : T0Ready (called aa s) :=
    ⟨by rw [hcfg, hvariant], by rw [hcfg]; exact Nat.and_le_right, hcount'.trans hcount⟩
  have hopN : t0IsPrefix (called aa s).op = false := by rw [hop', t0IsPrefix_of_lt (secondByte_lt aa)]
  have hret : readByte (called aa s).prog (called aa s).pc = 0x08#8 := by rw [hprog]; exact htarget
  have hthird := (ready'.step_first hopN hret rfl (decode_ret _)).trans (exec_ret (called aa s))
  refine ⟨_, slots_add (ready.slots_call hop hbyte hnext) ((slots_one _).trans hthird), ?pc, ?sp, ha, hb, hdata, hprog⟩
  case pc =>
    change maskP (called aa s).cfg (popped (called aa s)) = _
    rw [hcfg, popped_called]
    simp [maskP]
  case sp =>
    change countDown (called aa s).sp = s.sp
    rw [hsp', countDown_countUp s.sp hsp]

end Sys2Proof.Machine
end

section
/-! Which slots T0 refuses (45_reference_variant_t0.md R265, R266; 60_exceptions.md R280): no row's call refuses, so the
refusals of a slot are those of the two generic rows; a well-formed program never meets one. -/

namespace Sys2Proof.Machine

/-! ### Calls that refuse (R265) -/

/-- The call is given a meaning wherever it is made. -/
def NeverRefuses (x : Action) : Prop := ∀ (t : Slot) (r : Refusal), perform x t ≠ .refused r

theorem neverRefuses_ite {p : Prop} [Decidable p] {x y : Action} (hx : NeverRefuses x) (hy : NeverRefuses y) :
    NeverRefuses (if p then x else y) := by
  split_ifs
  · exact hx
  · exact hy

/-- Outside data space the data port faults, which is no refusal (log 10). -/
theorem neverRefuses_dataRead {k : Byte → Action} (hk : ∀ v, NeverRefuses (k v)) : NeverRefuses (.dataRead k) := by
  intro t r
  rw [perform]
  split
  · exact hk _ t r
  · exact nofun

theorem neverRefuses_dataWrite {v : Byte} {k : Action} (hk : NeverRefuses k) : NeverRefuses (.dataWrite v k) := by
  intro t r
  rw [perform]
  split
  · exact hk _ r
  · exact nofun

/-- No row of T0 is refused: of the accesses that can refuse, none looks up a segment (R230), and only the generic rows
stand for bytes without a meaning. -/
theorem t0Action_neverRefuses {i : Instr} (hrow : t0Row i = true) : NeverRefuses (t0Action i) := by
  have hdone : NeverRefuses (.done .one) := fun _ _ => nofun
  have hskip : NeverRefuses (.skipRequest (.done .one)) := fun _ _ => nofun
  have hjump : NeverRefuses (.readOp fun o => .pcLoad o.toNat (.done .one)) := fun _ _ => nofun
  have hcall : NeverRefuses (.readPc fun ret => .push ret (.readOp fun o => .pcLoad o.toNat (.done .one))) :=
    fun _ _ => nofun
  cases i with
  | byte _ => cases hrow
  | prefix2 _ _ => cases hrow
  | skc | skaz => exact fun t => neverRefuses_ite hskip hdone t
  | jmp _ => exact fun t => neverRefuses_ite hjump hdone t
  | call _ => exact fun t => neverRefuses_ite hcall hdone t
  | st => exact fun t => neverRefuses_dataWrite hdone t
  | ld => exact neverRefuses_dataRead fun _ _ _ => nofun
  | adc => exact fun t => neverRefuses_dataRead (fun _ _ _ => by nofun) t
  | _ => exact fun _ _ => nofun

theorem executedSlot_refused_iff {byte : Byte} {x : Action} {s : State} {r : Refusal} :
    executedSlot byte x s = .refused r ↔ perform x (beginSlot byte s) = .refused r := by
  unfold executedSlot
  cases perform x (beginSlot byte s) <;> simp

/-- The bytes R265 lists, by the byte fetched before: 0x80 and above in second-byte position, else those without a row. -/
def t0Refused (before byte : Byte) : Prop :=
  if t0IsPrefix before then 0x80#8 ≤ byte else t0Unmapped byte = true

theorem t0RowAt_of_refused {before byte : Byte} (h : t0Refused before byte) :
    t0RowAt before byte = if t0IsPrefix before then .prefix2 before byte else .byte byte := by
  unfold t0Refused at h
  unfold t0RowAt
  split_ifs at h ⊢ with hbefore
  · exact (le_iff_t0Pair byte hbefore).mp h
  · have hclass : t0IsPrefix byte = false := by revert byte; decide
    exact (t0Unmapped_iff_t0Pair hclass).mp h

theorem t0Row_t0RowAt {before byte : Byte} (h : ¬ t0Refused before byte) : t0Row (t0RowAt before byte) = true := by
  unfold t0Refused at h
  unfold t0RowAt
  split_ifs at h ⊢ with hbefore
  · obtain ⟨-, hgeneric⟩ | ⟨-, hrow⟩ := t0Pair_prefixPair byte hbefore
    · exact absurd ((le_iff_t0Pair byte hbefore).mpr hgeneric) h
    · exact hrow
  · exact t0Row_t0Pair_of_mapped (by simpa using h)

/-- T0's slot is refused for the bytes of R265, by name, and for no other. -/
theorem executedSlot_t0_refused_iff {byte : Byte} {s : State} {r : Refusal} :
    executedSlot byte (t0Action (t0RowAt s.op byte)) s = .refused r ↔
      t0Refused s.op byte ∧ r = .unmappedByte byte := by
  by_cases h : t0Refused s.op byte
  · have hslot : executedSlot byte (t0Action (t0RowAt s.op byte)) s = .refused (.unmappedByte byte) := by
      rw [t0RowAt_of_refused h]
      split_ifs
      · exact executedSlot_refused_iff.mpr (by simp [t0Action, perform])
      · exact executedSlot_unmapped byte s
    simp [hslot, h, eq_comm]
  · simpa [h, executedSlot_refused_iff] using t0Action_neverRefuses (t0Row_t0RowAt h) (beginSlot byte s) r

/-! ### Steps that are refused -/

/-- With no skip pending a step of T0 is the slot of the row that the byte at `pc` and the byte before it select. -/
theorem step_t0 {s : State} (hinv : s.Inv) (hvariant : s.cfg.variant = .t0) (hcount : s.skipCount = 0) :
    step s = executedSlot (readByte s.prog s.pc) (t0Action (t0RowAt s.op (readByte s.prog s.pc))) s := by
  rw [step_eq_executeOne hinv hcount, hvariant]
  rfl

/-- A suppressed byte is never refused (R145). -/
theorem step_t0_refused_iff {s : State} {r : Refusal} (hinv : s.Inv) (hvariant : s.cfg.variant = .t0) :
    step s = .refused r ↔
      s.skipCount = 0 ∧ t0Refused s.op (readByte s.prog s.pc) ∧ r = .unmappedByte (readByte s.prog s.pc) := by
  by_cases hcount : s.skipCount = 0
  · simp [step_t0 hinv hvariant hcount, executedSlot_t0_refused_iff, hcount]
  · have ⟨⟨hpc, _⟩, _⟩ := hinv
    simp [step_of_suppressed hpc hcount, hcount]

theorem t0IsPrefix_iff {b : Byte} : t0IsPrefix b = true ↔ b = 0x80#8 ∨ b = 0x81#8 := by simp [t0IsPrefix]

theorem t0Unmapped_iff {b : Byte} : t0Unmapped b = true ↔ (0x51#8 ≤ b ∧ b ≤ 0x7F#8) ∨ 0x82#8 ≤ b := by
  simp [t0Unmapped]

theorem t0Refused_iff {before byte : Byte} :
    t0Refused before byte ↔
      (before ≠ 0x80#8 ∧ before ≠ 0x81#8 ∧ ((0x51#8 ≤ byte ∧ byte ≤ 0x7F#8) ∨ 0x82#8 ≤ byte)) ∨
      ((before = 0x80#8 ∨ before = 0x81#8) ∧ 0x80#8 ≤ byte) := by
  unfold t0Refused
  rw [← t0Unmapped_iff]
  by_cases hbefore : before = 0x80#8 ∨ before = 0x81#8
  · rw [if_pos (t0IsPrefix_iff.mpr hbefore)]
    tauto
  · rw [if_neg (mt t0IsPrefix_iff.mp hbefore)]
    tauto

/-- Settles O29: the step is refused where its row is generic, and the ranges are those of R265. -/
theorem t0RefusesExactlyUnmappedBytes : Obligations.T0RefusesExactlyUnmappedBytes := by
  intro s r hinv hvariant
  rw [step_t0_refused_iff hinv hvariant, t0Refused_iff, and_comm (b := r = _)]

/-! ### Well-formed programs (R266) -/

/-- A step that is neither a fault nor refused completes. -/
theorem step_t0_completes {s : State} (hinv : s.Inv) (hvariant : s.cfg.variant = .t0)
    (h : s.skipCount = 0 → ¬ t0Refused s.op (readByte s.prog s.pc)) : ∃ t, step s = .next t := by
  cases hstep : step s with
  | next t => exact ⟨t, rfl⟩
  | fault r => exact absurd hstep (noSlotFaults s r hinv)
  | refused r =>
    obtain ⟨hcount, hrefused, -⟩ := (step_t0_refused_iff hinv hvariant).mp hstep
    exact absurd hrefused (h hcount)

theorem not_t0Refused_first {before byte : Byte} (hbefore : t0IsPrefix before = false) (h : t0Unmapped byte = false) :
    ¬ t0Refused before byte := by
  simp [t0Refused, hbefore, h]

theorem not_t0Refused_second {before byte : Byte} (hbefore : t0IsPrefix before = true) (h : byte < 0x80#8) :
    ¬ t0Refused before byte := by
  simpa [t0Refused, hbefore] using h

/-- The call for a prefix byte in first-byte position only returns its cost: its row is `JMP` or `CALL`, and the test of
`prev_op` fails (R262, R263). -/
theorem perform_t0_prefixByte {p : Byte} {s : State} (hp : t0IsPrefix p = true) (hop : t0IsPrefix s.op = false) :
    perform (t0Action (t0Pair p 0#8)) (beginSlot p s) = perform (.done .one) (beginSlot p s) := by
  have hne : s.op ≠ p := ne_of_not_prefix hop hp
  obtain rfl | rfl := t0IsPrefix_cases hp
  · change perform (if s.op = 0x80#8 then _ else .done .one) (beginSlot 0x80#8 s) = _
    rw [if_neg hne]
  · change perform (if s.op = 0x81#8 then _ else .done .one) (beginSlot 0x81#8 s) = _
    rw [if_neg hne]

/-- Where the byte fetched before tells the position of the next one, T0's `execute_one` is its account of that
position. -/
theorem agreesAt_t0 {s : State} {second : Bool} (hvariant : s.cfg.variant = .t0)
    (hop : s.skipCount = 0 → t0IsPrefix s.op = second) : agreesAt second s := by
  intro hcount
  have hop := hop hcount
  rw [hvariant]
  change perform (t0Action (t0RowAt s.op (nextByte s))) (beginSlot (nextByte s) s) =
    perform (t0ByPosition second) (beginSlot (nextByte s) s)
  rw [t0RowAt, hop]
  cases second with
  | true =>
    change _ = perform (if t0IsPrefix s.op then t0Action (t0Pair s.op (nextByte s)) else .unmapped)
      (beginSlot (nextByte s) s)
    rw [if_pos hop]
    rfl
  | false =>
    change perform (t0Action (t0Pair (nextByte s) 0#8)) (beginSlot (nextByte s) s) =
      perform (if t0IsPrefix (nextByte s) then .done .one else t0Action (t0Pair (nextByte s) 0#8))
        (beginSlot (nextByte s) s)
    cases hbyte : t0IsPrefix (nextByte s) with
    | true => exact perform_t0_prefixByte hbyte hop
    | false => rfl

theorem Reached.variant {s t : State} {second : Bool} (hvariant : s.cfg.variant = .t0) (h : Reached s t second) :
    t.cfg.variant = .t0 := by rw [h.cfg, hvariant]

/-- After a suppressed slot of a well-formed program with nothing left to suppress, the byte fetched is no prefix byte:
a fresh request that meets one leaves a slot to suppress, and a stale count stands at a second byte (R143, R266). -/
theorem t0IsPrefix_of_suppressed {s t : State} (hinv : s.Inv) (hvariant : s.cfg.variant = .t0)
    (hnext : t.skipCount = 0) (hstep : step s = .next t)
    (hstale : s.skip = false → nextByte s < 0x80#8) : t0IsPrefix (nextByte s) = false := by
  obtain ⟨-, -, hclassP, -⟩ := skipTransitionTable s t hinv hstep
  cases hfresh : s.skip with
  | false => exact t0IsPrefix_of_lt (hstale hfresh)
  | true =>
    obtain ⟨-, -, -, ⟨hone, -⟩, -⟩ := hinv
    by_contra hprefix
    have hprefix : opIsPrefix s.cfg.variant (readByte s.prog s.pc) = true := by
      rw [hvariant]
      exact Bool.of_not_eq_false hprefix
    obtain ⟨-, hleft⟩ := hclassP (hone hfresh) hfresh hprefix
    exact absurd (hnext.symm.trans hleft) (by decide)

/-- In the run of a well-formed program the byte fetched before is a prefix byte exactly where a second byte is to be
executed (R266): this is what T0's test of `prev_op` rests on. -/
theorem Reached.t0IsPrefix_op {s t : State} {second : Bool} (hinv : s.Inv) (hvariant : s.cfg.variant = .t0)
    (hstart : t0IsPrefix s.op = false) (hrun : t0WellFormedRun s) (h : Reached s t second) (hcount : t.skipCount = 0) :
    t0IsPrefix t.op = second := by
  cases h with
  | start => exact hstart
  | @slot u _ before hbefore hstep =>
    obtain ⟨-, -, -, -, -, -, hop, -⟩ := historiesShiftEverySlot u t hstep
    have hvariant' := hbefore.variant hvariant
    obtain ⟨hsecondByte, -⟩ := hrun u before hbefore
    have hop : t.op = nextByte u := hop
    rw [hop]
    by_cases hexecuted : u.skipCount = 0
    · cases before with
      | true => rw [secondFollows_of_second, t0IsPrefix_of_lt (hsecondByte rfl)]
      | false => rw [secondFollows_of_first hexecuted, hvariant']; rfl
    · rw [secondFollows_of_suppressed before hexecuted]
      exact t0IsPrefix_of_suppressed (hbefore.inv hinv) hvariant' hcount hstep
        fun hstale => hsecondByte (by simp [inSecondPosition, hexecuted, hstale])

/-- A byte of a well-formed program that is to be executed is not one that R265 lists. -/
theorem not_t0Refused_of_wellFormed {s t : State} {second : Bool} (hrun : t0WellFormedRun s) (h : Reached s t second)
    (hcount : t.skipCount = 0) (hop : t0IsPrefix t.op = second) : ¬ t0Refused t.op (nextByte t) := by
  obtain ⟨hsecondByte, hfirstByte⟩ := hrun t second h
  have hposition : inSecondPosition second t = second := by simp [inSecondPosition, hcount]
  rw [hposition] at hsecondByte hfirstByte
  cases second with
  | true => exact not_t0Refused_second hop (hsecondByte rfl)
  | false => exact not_t0Refused_first hop (hfirstByte rfl)

/-- Settles O30: a suppressed byte and a byte that R265 does not list complete, and along the run of a well-formed
program the byte before tells the position of the next. -/
theorem t0WellFormedByteRuns : Obligations.T0WellFormedByteRuns := by
  refine ⟨?oneSlot, fun s hinv hvariant _ hstart hrun => ⟨?agrees, ?completes⟩⟩
  case oneSlot =>
    rintro s hinv hvariant (hpending | ⟨hop, hrule⟩ | ⟨hop, hlow⟩)
    · exact step_t0_completes hinv hvariant fun hcount => absurd hcount hpending
    · exact step_t0_completes hinv hvariant fun _ => not_t0Refused_first hop (by simpa [t0HasRule] using hrule)
    · exact step_t0_completes hinv hvariant fun _ => not_t0Refused_second hop hlow
  case agrees =>
    exact fun t second h => agreesAt_t0 (h.variant hvariant) (h.t0IsPrefix_op hinv hvariant hstart hrun)
  case completes =>
    exact fun t second h => step_t0_completes (h.inv hinv) (h.variant hvariant) fun hcount =>
      not_t0Refused_of_wellFormed hrun h hcount (h.t0IsPrefix_op hinv hvariant hstart hrun hcount)

end Sys2Proof.Machine
end

section
/-! What each row of T0 leaves alone (45_reference_variant_t0.md R242 to R264, R267). The frame is that of the row's call:
none of the fields named is moved by the phases around it. -/

namespace Sys2Proof.Machine

theorem perform_dataRead_next {k : Byte → Action} {t u : Slot} {c : Cost} (h : perform (.dataRead k) t = .next (u, c)) :
    ∃ v, perform (k v) t = .next (u, c) := by
  rw [perform] at h
  split at h
  · exact ⟨_, h⟩
  · cases h

theorem perform_dataWrite_next {v : Byte} {k : Action} {t u : Slot} {c : Cost}
    (h : perform (.dataWrite v k) t = .next (u, c)) :
    ∃ addr, perform k (t.with (dataWrite addr v t.st)) = .next (u, c) := by
  rw [perform] at h
  split at h
  · exact ⟨_, h⟩
  · cases h

theorem perform_ite_next {p : Prop} [Decidable p] {x y : Action} {t u : Slot} {c : Cost}
    (h : perform (if p then x else y) t = .next (u, c)) : perform x t = .next (u, c) ∨ perform y t = .next (u, c) := by
  split_ifs at h
  · exact .inl h
  · exact .inr h

/-- From `s` to `t` nothing changed that row `i` leaves alone. -/
structure T0Framed (i : Instr) (s t : State) : Prop where
  fixed : t.prog = s.prog ∧ t.sag = s.sag ∧ t.priv = s.priv ∧ t.cfg = s.cfg
  data : i ≠ .st → t.data = s.data
  stack : (∀ aa, i ≠ .call aa) → i ≠ .ret → i ≠ .retsk → t.sp = s.sp ∧ t.stack0 = s.stack0 ∧ t.stack1 = s.stack1
  skip : i ≠ .skip → i ≠ .skc → i ≠ .skaz → i ≠ .retsk → t.skip = s.skip ∧ t.skipCount = s.skipCount
  b : i ≠ .xab → (∀ n, i ≠ .lb n) → (∀ n, i ≠ .lbi n) → t.b = s.b
  a : i ≠ .xab → i ≠ .ld → i ≠ .lapp → i ≠ .adc → i ≠ .lar → (∀ n, i ≠ .lai n) → (∀ n, i ≠ .adi n) → t.a = s.a

/-- The call of a row leaves the row's frame: a row that tests something by either answer, a row that uses the data port
by what the port gives or takes, any other as it stands. -/
theorem perform_t0Action_framed {i : Instr} {t u : Slot} {k : Cost} (hrow : t0Row i = true)
    (h : perform (t0Action i) t = .next (u, k)) : T0Framed i t.st u.st := by
  cases i with
  | byte _ => cases hrow
  | prefix2 _ _ => cases hrow
  | skc | skaz | jmp _ | call _ =>
    obtain h | h := perform_ite_next (t := t) h
    all_goals
      cases h
      constructor <;> simp
  | ld =>
    obtain ⟨v, h⟩ := perform_dataRead_next h
    cases h
    constructor <;> simp
  | adc =>
    obtain ⟨v, h⟩ := perform_dataRead_next (t := t) h
    cases h
    constructor <;> simp
  | st =>
    obtain ⟨addr, h⟩ := perform_dataWrite_next (t := t) h
    cases h
    constructor <;> simp
  | _ =>
    cases h
    constructor <;> simp

theorem exec_t0_framed {i : Instr} {s t : State} (hrow : t0Row i = true) (h : exec i s = .next t) : T0Framed i s t := by
  rw [exec_t0Row i s hrow] at h
  obtain ⟨u, k, hperform, rfl⟩ := executedSlot_next_iff.mp h
  obtain ⟨hfixed, hdata, hstack, hskip, hb, ha⟩ := perform_t0Action_framed hrow hperform
  rw [endSlot_eq]
  exact ⟨hfixed, hdata, hstack, hskip, hb, ha⟩

/-- Settles O43: the row's frame, with equal memories read alike. -/
theorem t0Frame : Obligations.T0Frame := by
  intro s t i hrow h
  obtain ⟨⟨hprog, hsag, hpriv, hcfg⟩, hdata, hstack, hskip, hb, ha⟩ := exec_t0_framed hrow h
  exact ⟨fun x => by rw [hprog], hsag, hpriv, hcfg, fun hst x => by rw [hdata hst], hstack, hskip, hb, ha⟩

end Sys2Proof.Machine
end

section
/-! The host's misuse of a core (60_exceptions.md R296 items 4 and 5; 70_reset_and_hazards.md R311, R312): a call during a
`run`, and a construction out of bounds. -/

namespace Sys2Proof.Machine

/-- At a slot boundary a `run` is in progress exactly where budget is left (R111). -/
theorem runInProgress_iff {s : State} : runInProgress s = true ↔ 0 < s.icount := by
  rw [runInProgress, decide_eq_true_iff]

theorem hostReset_of_runInProgress {s : State} (h : runInProgress s = true) :
    hostReset s = .refused .runInProgress :=
  if_pos h

theorem hostRun_of_runInProgress {s : State} (n : Int) (h : runInProgress s = true) :
    hostRun n s = .refused .runInProgress :=
  if_pos h

/-- Settles O4: both calls test first whether a `run` is in progress. -/
theorem hostCallsRefusedDuringRun : Obligations.HostCallsRefusedDuringRun := by
  intro s n hleft
  have hbusy : runInProgress s = true := runInProgress_iff.mpr hleft
  exact ⟨hostReset_of_runInProgress hbusy, hostRun_of_runInProgress n hbusy⟩

theorem Config.wf_iff {g : Config} : g.wf = true ↔ 1 ≤ g.pw ∧ 1 ≤ g.dw ∧ 1 ≤ g.skipCost := by
  simp [Config.wf, and_assoc]

theorem construct_of_not_wf {g : Config} (p d : Memory) (h : ¬ g.wf = true) :
    construct g p d = .refused .badConfiguration :=
  if_neg h

/-- Settles O5: the configuration is well formed or not, and the implicit reset of a well-formed one starts from the
empty private state of `State.reset`. -/
theorem constructionBounds : Obligations.ConstructionBounds := by
  refine fun g p d => ⟨?refuses, ?constructs⟩
  case refuses =>
    intro hbad
    refine construct_of_not_wf p d fun hwf => ?_
    obtain ⟨hpw, hdw, hskip⟩ := Config.wf_iff.mp hwf
    omega
  case constructs =>
    intro hpw hdw hskip
    exact construct_next_iff.mpr ⟨Config.wf_iff.mpr ⟨hpw, hdw, hskip⟩, rfl⟩

end Sys2Proof.Machine
end

section
/-! The costs of T0's rows (45_reference_variant_t0.md R243, R251, R267; 70_reset_and_hazards.md R332). Phase S6 charges
what the call returned (R118), so a slot costs what every completing path of its row's call returns. -/

namespace Sys2Proof.Machine

/-- The cost column of T0 (R332). -/
def t0Cost : Instr → Cost
  | .nop2 | .retsk => .two
  | _ => .one

theorem costCycles_t0Cost (i : Instr) : costCycles (t0Cost i) = if i = .nop2 ∨ i = .retsk then 2 else 1 := by
  cases i <;> simp [t0Cost, costCycles]

/-- The call of a row returns the row's cost: a row that tests something by either answer, a row that uses the data port
whatever the port gives or takes, any other as it stands. -/
theorem perform_t0Action_cost {i : Instr} {t u : Slot} {k : Cost} (hrow : t0Row i = true)
    (h : perform (t0Action i) t = .next (u, k)) : k = t0Cost i := by
  cases i with
  | byte _ => cases hrow
  | prefix2 _ _ => cases hrow
  | skc | skaz | jmp _ | call _ =>
    obtain h | h := perform_ite_next (t := t) h
    all_goals
      cases h
      rfl
  | ld | adc =>
    obtain ⟨v, h⟩ := perform_dataRead_next (t := t) h
    cases h
    rfl
  | st =>
    obtain ⟨addr, h⟩ := perform_dataWrite_next (t := t) h
    cases h
    rfl
  | _ =>
    cases h
    rfl

theorem executedSlot_icount_of_cost {byte : Byte} {x : Action} {c : Cost} {s t : State}
    (hx : ∀ (u v : Slot) (k : Cost), perform x u = .next (v, k) → k = c) (h : executedSlot byte x s = .next t) :
    t.icount = s.icount - costCycles c := by
  obtain ⟨u, k, hperform, rfl⟩ := executedSlot_next_iff.mp h
  obtain ⟨-, -, -, -, -, -, -, -, -, -, hbudget⟩ := perform_untouched hperform
  rw [endSlot_icount, hbudget, hx _ _ _ hperform]
  simp

/-- Settles O44: the slot charges the cost its row's call returns. -/
theorem t0CostTable : Obligations.T0CostTable := by
  intro s t i hrow h
  rw [exec_t0Row i s hrow] at h
  rw [← costCycles_t0Cost]
  exact executedSlot_icount_of_cost (fun _ _ _ => perform_t0Action_cost hrow) h

end Sys2Proof.Machine
end

section
/-! The host's `reset()` between runs (70_reset_and_hazards.md R310, R311, R314): what it answers, said once, and why a
second one finds nothing left to change where the variant's own reset leaves the private state alone. -/

namespace Sys2Proof.Machine

/-- A `reset()` that is not refused is one between runs, and leaves the reset state (R310, R311). -/
theorem hostReset_next_iff {s t : State} : hostReset s = .next t ↔ s.icount ≤ 0 ∧ resetState s = t := by
  rw [← not_lt, ← runInProgress_iff]
  unfold hostReset
  split_ifs with hbusy <;> simp [hbusy]

/-- Settles O2: `resetState` is this state by definition, so all there is to ask is that no `run` is in progress. -/
theorem hostResetKeepsMemory : Obligations.HostResetKeepsMemory :=
  fun _ hspent => hostReset_next_iff.mpr ⟨hspent, rfl⟩

/-- T0 and the probe contract have no private state to reset (R240). -/
theorem resetPriv_of_no_priv {v : Variant} (h : v = .t0 ∨ v = .probe) (p : List Nat) : (contractOf v).resetPriv p = p := by
  obtain rfl | rfl := h
  · rfl
  · rfl

/-- All but the private state is what the first reset made it; the private state is the variant's own reset, twice. -/
theorem resetState_resetState {s : State}
    (h : ∀ p, (contractOf s.cfg.variant).resetPriv p = p) : resetState (resetState s) = resetState s := by
  simp [resetState, h]

/-- Settles O3: the first reset leaves `icount` at 0, so the second is not refused, and it changes nothing. -/
theorem secondResetChangesNothing : Obligations.SecondResetChangesNothing := by
  intro s t hvariant h
  obtain ⟨-, rfl⟩ := hostReset_next_iff.mp h
  have hspent : (resetState s).icount ≤ 0 := le_refl 0
  exact hostReset_next_iff.mpr ⟨hspent, resetState_resetState (resetPriv_of_no_priv hvariant)⟩

end Sys2Proof.Machine
end
